-- ==== Sys2Proof/Word.lean ====
section
/-! DEFINITION. The words of the composer: bytes, the 32-bit and 128-bit registers, and byte arrays of a fixed
length (spec/00_scope.md section 5: "Byte array", `zeros(n)`, `rep(v, n)`, `X || Y`, `X[a..b)`). -/

namespace Sys2Proof

/-- 8 bits (00_scope section 5, "Byte"). -/
abbrev Byte := BitVec 8

/-- A host register or an offset register (10_state R13 to R19, R28). -/
abbrev Word32 := BitVec 32

/-- A word of the reference engine's state (42_hash_engine_port R120). -/
abbrev Word64 := BitVec 64

/-- The byte counter's width, `CTR_W = 128` (00_scope R6, 10_state R27). -/
abbrev U128 := BitVec 128

/-- A byte array of exactly `n` bytes, byte 0 first (00_scope section 5). -/
structure Bytes (n : Nat) where
  toList : List Byte
  length_toList : toList.length = n
  deriving DecidableEq, Repr

/-- `rep(v, n)`: `n` copies of byte `v`. -/
def Bytes.rep (v : Byte) (n : Nat) : Bytes n :=
  ⟨List.replicate n v, List.length_replicate⟩

/-- `zeros(n)`. -/
def Bytes.zeros (n : Nat) : Bytes n := Bytes.rep 0 n

/-- The first `n` bytes of a list, filled up with zeros: every list gives `n` bytes. -/
def Bytes.ofList (n : Nat) (l : List Byte) : Bytes n :=
  ⟨(l ++ List.replicate n 0).take n, by simp⟩

/-- Byte `i` of the array, `X[i]` (0 where there is no such byte; every use has `i < n`). -/
def Bytes.get {n : Nat} (b : Bytes n) (i : Nat) : Byte := b.toList.getD i 0

/-- A 128-byte block: KEYBLK, IPAD, OPAD and the engine's blocks (`B = 128`, 00_scope R6). -/
abbrev Block := Bytes 128

/-- A 64-byte digest (`L = 64`, 00_scope R6). -/
abbrev Digest := Bytes 64

end Sys2Proof
end

