-- ==== Sys2Proof/Config.lean ====
section
/-! DEFINITION. What is fixed for one composer and changes in no step (spec/00_scope.md R6, R7; spec/10_state.md
R11): the constants, and the Hash Engine `E`, a record of four pure functions over a state type that is any type
(spec/42_hash_engine_port.md R110). The whole machine takes `E` as a parameter (Machine/EveryEngine.lean); the host's
interface is the machine of the reference engine (Machine/Engine.lean). -/

namespace Sys2Proof

/-- Block length in bytes, `B` (00_scope R6). -/
abbrev Config.blockLen : Nat := 128

/-- Digest length in bytes, `L`, and the length of the tag, `TAG_LEN` (00_scope R6). -/
abbrev Config.digestLen : Nat := 64

/-- `IPAD_BYTE` (00_scope R6). -/
abbrev Config.ipadByte : Byte := 0x36

/-- `OPAD_BYTE` (00_scope R6). -/
abbrev Config.opadByte : Byte := 0x5c

/-- The Hash Engine `E` (42_hash_engine_port R110, 00_scope R7): a state type `σ`, which is any type, and four pure,
total functions. The composer only stores a value of `σ` and hands it back (10_state R25). A chunk of `updateLast` is a
list of at most 128 bytes; the port lets no longer one through (R116). -/
structure Engine (σ : Type) where
  init : σ
  updateMulti : σ → U128 → Block → σ × U128
  updateLast : σ → U128 → List Byte → σ × U128
  finish : σ → U128 → Digest

/-- `E.State` (R110). -/
abbrev Engine.State {σ : Type} (_ : Engine σ) : Type := σ

/-- The counter contract of 42_hash_engine_port R117: each command returns its counter advanced by the bytes it
was given, modulo 2^128 (43_orchestrator R160). -/
def Engine.CounterContract {σ : Type} (E : Engine σ) : Prop :=
  (∀ h c b, (E.updateMulti h c b).2 = c + 128) ∧
  ∀ h c x, x.length ≤ 128 → (E.updateLast h c x).2 = c + BitVec.ofNat 128 x.length

/-- The state type of the reference engine: eight 64-bit words (42_hash_engine_port R120). -/
structure HashState where
  h0 : Word64
  h1 : Word64
  h2 : Word64
  h3 : Word64
  h4 : Word64
  h5 : Word64
  h6 : Word64
  h7 : Word64
  deriving DecidableEq, Repr

end Sys2Proof
end

