-- ==== Sys2Proof/Syntax.lean ====
section
/-! DEFINITION. The instructions of the composer: one constructor per row of spec/opcode_table.json
(spec/30_encoding.md R60: host transactions `HT`, phases `PH`, engine commands `EC`). Bits the spec ignores (R62)
are carried, so that no bit of a word is lost (log 19). -/

namespace Sys2Proof

/-- The 43 rows. `HT` rows carry the bits of `DATA` their row does not fix; `PH` rows have no operand (R63); `EC`
rows carry `LEN` and, where the command uses it, the bus `BLK` (R64). -/
inductive Instr
  -- format HT, writes (44_host_interface R181 to R188, R192)
  | start (ignored : BitVec 31)
  | wrCtrlNop (ignored : BitVec 31)
  | wrStatus (data : Word32)
  | wrKeyLen (data : Word32)
  | wrDataLen (data : Word32)
  | wrKeyCap (data : Word32)
  | wrDataCap (data : Word32)
  | wrDstCap (data : Word32)
  | wrRsvd7 (data : Word32)
  -- format HT, reads (44_host_interface R189 to R193, R196 to R198)
  | rdCtrl (ignored : Word32)
  | rdStatus (ignored : Word32)
  | rdKeyLen (ignored : Word32)
  | rdDataLen (ignored : Word32)
  | rdKeyCap (ignored : Word32)
  | rdDataCap (ignored : Word32)
  | rdDstCap (ignored : Word32)
  | rdRsvd7 (ignored : Word32)
  -- format PH (10_state R20, 30_encoding R63)
  | idle
  | check
  | kbClear
  | knCopy
  | khInit
  | khMulti
  | khLast
  | khFinish
  | pdIpad
  | pdOpad
  | inInit
  | inPadLast
  | inPadMulti
  | inMsgMulti
  | inMsgLast
  | inFinish
  | outInit
  | outPadMulti
  | outDigLast
  | outFinish
  | retire
  | faulted
  -- format EC (30_encoding R64, R65)
  | init (len : Byte)
  | updateMulti (len : Byte) (blk : BitVec 1024)
  | updateLast (len : Byte) (blk : BitVec 1024)
  | finish (len : Byte)
  deriving DecidableEq, Repr

end Sys2Proof
end

