-- ==== Sys2Proof/WellFormed.lean ====
section
/-! DEFINITION. Well-formed instructions: an engine command carries a legal `LEN` (spec/30_encoding.md R65, R69;
spec/42_hash_engine_port.md R116). Every host transaction and every phase is well-formed (R62, R67). An ill-formed
engine command decodes too, and raises ENGINE_ASSERT at the port. -/

namespace Sys2Proof

/-- `LEN` is 0 for INIT and FINISH, 128 for UPDATE_MULTI, 0 to 128 for UPDATE_LAST (R65). -/
def Instr.wf : Instr → Bool
  | .init len => len == 0
  | .updateMulti len _ => len == 128
  | .updateLast len _ => len.toNat ≤ 128
  | .finish len => len == 0
  | .start _ | .wrCtrlNop _ | .wrStatus _ | .wrKeyLen _ | .wrDataLen _ | .wrKeyCap _ | .wrDataCap _
  | .wrDstCap _ | .wrRsvd7 _ | .rdCtrl _ | .rdStatus _ | .rdKeyLen _ | .rdDataLen _ | .rdKeyCap _
  | .rdDataCap _ | .rdDstCap _ | .rdRsvd7 _ | .idle | .check | .kbClear | .knCopy | .khInit | .khMulti
  | .khLast | .khFinish | .pdIpad | .pdOpad | .inInit | .inPadLast | .inPadMulti | .inMsgMulti
  | .inMsgLast | .inFinish | .outInit | .outPadMulti | .outDigLast | .outFinish | .retire | .faulted => true

end Sys2Proof
end

