-- ==== Sys2Proof/Decode.lean ====
section
/-! DEFINITION. The three encodings of spec/30_encoding.md: a code is a word of one format; `decode` reads it, total
and rejecting by name; `encode` writes it from the same tables (R61 to R65). Below it, the layout of a code as bytes
(the model's convention, log 13) and the numbering of spec/opcode_table.json. -/

namespace Sys2Proof

/-- The formats of R60. -/
inductive Format
  | ht
  | ph
  | ec
  deriving DecidableEq, Repr

/-- A word of one format: 36, 5, or 10 bits with the 1024-bit operand bus `BLK` (R61, R63, R64). -/
inductive Code
  | ht (w : BitVec 36)
  | ph (c : BitVec 5)
  | ec (hdr : BitVec 10) (blk : BitVec 1024)
  deriving DecidableEq, Repr

/-- Why bits are no instruction. -/
inductive DecodeError
  /-- a phase code 0x15 to 0x1E (R68) -/
  | reservedPhase
  /-- fewer bytes than the format has (log 13) -/
  | tooFewBytes
  /-- a padding bit above the format's width is set (log 13) -/
  | strayBits
  deriving DecidableEq, Repr

/-! ### Format HT (R61, R62) -/

/-- A host transaction word: `W` at 35, `REG` at 34:32, `DATA` at 31:0 (R61). -/
def htWord (w : BitVec 1) (reg : BitVec 3) (data : Word32) : BitVec 36 := w ++ reg ++ data

def htW (w : BitVec 36) : BitVec 1 := w.extractLsb' 35 1
def htReg (w : BitVec 36) : BitVec 3 := w.extractLsb' 32 3
def htData (w : BitVec 36) : Word32 := w.extractLsb' 0 32

/-- The opcode map of R62; it is total. -/
def decodeHt (w : BitVec 36) : Instr :=
  if htW w = 1 then
    match htReg w with
    | 0#3 =>
      if (htData w).extractLsb' 0 1 = 1#1 then .start ((htData w).extractLsb' 1 31)
      else .wrCtrlNop ((htData w).extractLsb' 1 31)
    | 1#3 => .wrStatus (htData w)
    | 2#3 => .wrKeyLen (htData w)
    | 3#3 => .wrDataLen (htData w)
    | 4#3 => .wrKeyCap (htData w)
    | 5#3 => .wrDataCap (htData w)
    | 6#3 => .wrDstCap (htData w)
    | _ => .wrRsvd7 (htData w)
  else
    match htReg w with
    | 0#3 => .rdCtrl (htData w)
    | 1#3 => .rdStatus (htData w)
    | 2#3 => .rdKeyLen (htData w)
    | 3#3 => .rdDataLen (htData w)
    | 4#3 => .rdKeyCap (htData w)
    | 5#3 => .rdDataCap (htData w)
    | 6#3 => .rdDstCap (htData w)
    | _ => .rdRsvd7 (htData w)

/-! ### Format PH (R63, R68) -/

/-- The phase codes of R63; 0x15 to 0x1E are reserved (R68). -/
def decodePh (c : BitVec 5) : Except DecodeError Instr :=
  match c with
  | 0x00#5 => .ok .idle
  | 0x01#5 => .ok .check
  | 0x02#5 => .ok .kbClear
  | 0x03#5 => .ok .knCopy
  | 0x04#5 => .ok .khInit
  | 0x05#5 => .ok .khMulti
  | 0x06#5 => .ok .khLast
  | 0x07#5 => .ok .khFinish
  | 0x08#5 => .ok .pdIpad
  | 0x09#5 => .ok .pdOpad
  | 0x0A#5 => .ok .inInit
  | 0x0B#5 => .ok .inPadLast
  | 0x0C#5 => .ok .inPadMulti
  | 0x0D#5 => .ok .inMsgMulti
  | 0x0E#5 => .ok .inMsgLast
  | 0x0F#5 => .ok .inFinish
  | 0x10#5 => .ok .outInit
  | 0x11#5 => .ok .outPadMulti
  | 0x12#5 => .ok .outDigLast
  | 0x13#5 => .ok .outFinish
  | 0x14#5 => .ok .retire
  | 0x1F#5 => .ok .faulted
  | _ => .error .reservedPhase

/-! ### Format EC (R64, R65, R69) -/

/-- An engine command header: `OP` at 9:8, `LEN` at 7:0 (R64). -/
def ecHeader (op : BitVec 2) (len : Byte) : BitVec 10 := op ++ len

def ecOp (hdr : BitVec 10) : BitVec 2 := hdr.extractLsb' 8 2
def ecLen (hdr : BitVec 10) : Byte := hdr.extractLsb' 0 8

/-- The opcode map of R65. `LEN` is kept as it stands: the port checks it (R69, R116). -/
def decodeEc (hdr : BitVec 10) (blk : BitVec 1024) : Instr :=
  match ecOp hdr with
  | 0#2 => .init (ecLen hdr)
  | 1#2 => .updateMulti (ecLen hdr) blk
  | 2#2 => .updateLast (ecLen hdr) blk
  | _ => .finish (ecLen hdr)

/-- The instruction a code stands for. -/
def decode : Code → Except DecodeError Instr
  | .ht w => .ok (decodeHt w)
  | .ph c => decodePh c
  | .ec hdr blk => .ok (decodeEc hdr blk)

/-- The code of an instruction, from the tables of R62, R63, R65. INIT and FINISH use no `BLK` (R64): it is 0. -/
def encode : Instr → Code
  | .start d => .ht (htWord 1 0 (d ++ 1#1))
  | .wrCtrlNop d => .ht (htWord 1 0 (d ++ 0#1))
  | .wrStatus d => .ht (htWord 1 1 d)
  | .wrKeyLen d => .ht (htWord 1 2 d)
  | .wrDataLen d => .ht (htWord 1 3 d)
  | .wrKeyCap d => .ht (htWord 1 4 d)
  | .wrDataCap d => .ht (htWord 1 5 d)
  | .wrDstCap d => .ht (htWord 1 6 d)
  | .wrRsvd7 d => .ht (htWord 1 7 d)
  | .rdCtrl d => .ht (htWord 0 0 d)
  | .rdStatus d => .ht (htWord 0 1 d)
  | .rdKeyLen d => .ht (htWord 0 2 d)
  | .rdDataLen d => .ht (htWord 0 3 d)
  | .rdKeyCap d => .ht (htWord 0 4 d)
  | .rdDataCap d => .ht (htWord 0 5 d)
  | .rdDstCap d => .ht (htWord 0 6 d)
  | .rdRsvd7 d => .ht (htWord 0 7 d)
  | .idle => .ph 0x00
  | .check => .ph 0x01
  | .kbClear => .ph 0x02
  | .knCopy => .ph 0x03
  | .khInit => .ph 0x04
  | .khMulti => .ph 0x05
  | .khLast => .ph 0x06
  | .khFinish => .ph 0x07
  | .pdIpad => .ph 0x08
  | .pdOpad => .ph 0x09
  | .inInit => .ph 0x0A
  | .inPadLast => .ph 0x0B
  | .inPadMulti => .ph 0x0C
  | .inMsgMulti => .ph 0x0D
  | .inMsgLast => .ph 0x0E
  | .inFinish => .ph 0x0F
  | .outInit => .ph 0x10
  | .outPadMulti => .ph 0x11
  | .outDigLast => .ph 0x12
  | .outFinish => .ph 0x13
  | .retire => .ph 0x14
  | .faulted => .ph 0x1F
  | .init len => .ec (ecHeader 0 len) 0
  | .updateMulti len blk => .ec (ecHeader 1 len) blk
  | .updateLast len blk => .ec (ecHeader 2 len) blk
  | .finish len => .ec (ecHeader 3 len) 0

/-! ### Codes as bytes, and the numbering of the opcode table (log 13) -/

/-- A little-endian number of bytes: byte `k` weighs `2^(8k)`. -/
def leNat : List Byte → Nat
  | [] => 0
  | b :: bs => b.toNat + 256 * leNat bs

/-- The lowest `n` bytes of a number, little-endian. -/
def leBytes : Nat → Nat → List Byte
  | 0, _ => []
  | n + 1, v => BitVec.ofNat 8 v :: leBytes n (v / 256)

/-- A code's format. -/
def Code.format : Code → Format
  | .ht _ => .ht
  | .ph _ => .ph
  | .ec _ _ => .ec

/-- The bytes a code fills: 36, 5 and 10 bits in whole bytes, and 128 bytes of `BLK`. -/
def Format.bytes : Format → Nat
  | .ht => 5
  | .ph => 1
  | .ec => 130

/-- A code laid out in bytes, least significant first, the padding bits 0. -/
def codeBytes : Code → List Byte
  | .ht w => leBytes 5 w.toNat
  | .ph c => leBytes 1 c.toNat
  | .ec hdr blk => leBytes 2 hdr.toNat ++ leBytes 128 blk.toNat

/-- A number as a word of `w` bits; a bit above them is rejected. -/
def fitBits (w v : Nat) : Except DecodeError (BitVec w) :=
  if v < 2 ^ w then .ok (BitVec.ofNat w v) else .error .strayBits

/-- The code at the head of a list of bytes. -/
def codeOfBytes (f : Format) (bs : List Byte) : Except DecodeError Code :=
  if bs.length < f.bytes then .error .tooFewBytes
  else
    match f with
    | .ht => (fitBits 36 (leNat (bs.take 5))).map .ht
    | .ph => (fitBits 5 (leNat (bs.take 1))).map .ph
    | .ec => (fitBits 10 (leNat (bs.take 2))).map fun hdr =>
        .ec hdr (BitVec.ofNat 1024 (leNat ((bs.drop 2).take 128)))

/-- The instruction at the head of a list of bytes, and the bytes after it. -/
def decodeBytes (f : Format) (bs : List Byte) : Except DecodeError (Instr × List Byte) :=
  match codeOfBytes f bs with
  | .error e => .error e
  | .ok c =>
    match decode c with
    | .error e => .error e
    | .ok i => .ok (i, bs.drop f.bytes)

/-- An instruction's bytes. -/
def encodeBytes (i : Instr) : List Byte := codeBytes (encode i)

/-- The format of a table row, told by its width in whole bytes: `PH` 8 bits, `EC` 16, `HT` 40. -/
def formatOfBits (nbits : Nat) : Option Format :=
  if nbits = 0 then none
  else if nbits ≤ 8 then some .ph
  else if nbits ≤ 16 then some .ec
  else if nbits ≤ 64 then some .ht
  else none

/-- The code of a table word: the bits above it, an engine command's `BLK`, are 0. -/
def tableCode (nbits w : Nat) : Option Code :=
  match formatOfBits nbits with
  | none => none
  | some f => if w < 2 ^ (8 * f.bytes) then (codeOfBytes f (leBytes f.bytes w)).toOption else none

/-- The instruction the decoder reads from a word numbered as spec/opcode_table.json numbers its bits. -/
def decodeTableWord (nbits w : Nat) : Option Instr :=
  match tableCode nbits w with
  | none => none
  | some c => (decode c).toOption

/-- A code as the table numbers its bits: the header of an engine command without its operand. -/
def Code.tableBits : Code → Nat
  | .ht w => w.toNat
  | .ph c => c.toNat
  | .ec hdr _ => hdr.toNat

/-- `match` and `mask` of an instruction's row in spec/opcode_table.json. -/
def tableRow : Instr → Nat × Nat
  | .start _ => (0x800000001, 0xF00000001)
  | .wrCtrlNop _ => (0x800000000, 0xF00000001)
  | .wrStatus _ => (0x900000000, 0xF00000000)
  | .wrKeyLen _ => (0xA00000000, 0xF00000000)
  | .wrDataLen _ => (0xB00000000, 0xF00000000)
  | .wrKeyCap _ => (0xC00000000, 0xF00000000)
  | .wrDataCap _ => (0xD00000000, 0xF00000000)
  | .wrDstCap _ => (0xE00000000, 0xF00000000)
  | .wrRsvd7 _ => (0xF00000000, 0xF00000000)
  | .rdCtrl _ => (0x000000000, 0xF00000000)
  | .rdStatus _ => (0x100000000, 0xF00000000)
  | .rdKeyLen _ => (0x200000000, 0xF00000000)
  | .rdDataLen _ => (0x300000000, 0xF00000000)
  | .rdKeyCap _ => (0x400000000, 0xF00000000)
  | .rdDataCap _ => (0x500000000, 0xF00000000)
  | .rdDstCap _ => (0x600000000, 0xF00000000)
  | .rdRsvd7 _ => (0x700000000, 0xF00000000)
  | .idle => (0x00, 0x1F)
  | .check => (0x01, 0x1F)
  | .kbClear => (0x02, 0x1F)
  | .knCopy => (0x03, 0x1F)
  | .khInit => (0x04, 0x1F)
  | .khMulti => (0x05, 0x1F)
  | .khLast => (0x06, 0x1F)
  | .khFinish => (0x07, 0x1F)
  | .pdIpad => (0x08, 0x1F)
  | .pdOpad => (0x09, 0x1F)
  | .inInit => (0x0A, 0x1F)
  | .inPadLast => (0x0B, 0x1F)
  | .inPadMulti => (0x0C, 0x1F)
  | .inMsgMulti => (0x0D, 0x1F)
  | .inMsgLast => (0x0E, 0x1F)
  | .inFinish => (0x0F, 0x1F)
  | .outInit => (0x10, 0x1F)
  | .outPadMulti => (0x11, 0x1F)
  | .outDigLast => (0x12, 0x1F)
  | .outFinish => (0x13, 0x1F)
  | .retire => (0x14, 0x1F)
  | .faulted => (0x1F, 0x1F)
  | .init _ => (0x000, 0x3FF)
  | .updateMulti _ _ => (0x180, 0x3FF)
  | .updateLast _ _ => (0x200, 0x300)
  | .finish _ => (0x300, 0x3FF)

end Sys2Proof
end

