-- ==== Sys2Proof/Machine/State.lean ====
section
/-! DEFINITION. The state of one composer (spec/10_state.md R10), plain data, and the state after reset (R33). The
last three fields are the model's own (log 1, 2, 3): no rule of the block reads them. The type of the hash state is the engine's
(R25; 42_hash_engine_port R110): `State.Of σ` is the state of a composer with an engine over `σ`, and `State` that of the
reference engine's. -/

namespace Sys2Proof.Machine

/-- The codes of `PH` (10_state R20). The reserved codes 0x15 to 0x1E are left out of the type (30_encoding R68;
log 8). -/
inductive Phase
  | idle
  | check
  | kbClear
  | knCopy
  | khInit
  | khMulti
  | khLast
  | khFinish
  | pdIpad
  | pdOpad
  | inInit
  | inPadLast
  | inPadMulti
  | inMsgMulti
  | inMsgLast
  | inFinish
  | outInit
  | outPadMulti
  | outDigLast
  | outFinish
  | retire
  | faulted
  deriving DecidableEq, Repr

/-- `HS`, the life-cycle tag of `H`: 0, 1, 2; the code 3 is reserved and never written (10_state R26). -/
inductive HashLife
  | empty
  | absorbing
  | final
  deriving DecidableEq, Repr

/-- The causes of a fault (60_exceptions R200); the codes are in Machine/Flags.lean. -/
inductive FaultCause
  | dstShort
  | keyShort
  | dataShort
  | engineAssert
  deriving DecidableEq, Repr

/-- The operand spaces (10_state R30). -/
inductive Space
  | key
  | data
  | dst
  deriving DecidableEq, Repr

/-- The bytes of an operand space: offset and byte, offsets strictly rising, no byte equal to what an unlisted
offset reads as (`Memory.wf`). -/
abbrev Memory := List Host.Cell

/-- What the platform and the host do outside the register file. -/
inductive PlatformAction
  /-- assert reset (70_reset R230) -/
  | reset
  /-- attach a space of `cap` bytes whose first bytes are given (30_encoding R71 `ATTACH`, 20_memory R42) -/
  | attach (sp : Space) (cap : Word32) (bytes : List Byte)
  /-- the host writes one byte of a space (20_memory R42) -/
  | hostWrite (sp : Space) (off : Word32) (b : Byte)
  deriving DecidableEq, Repr

/-- One turn of the interleaving (44_host_interface R180, D24; log 1). -/
inductive Input
  /-- the sequencer's turn -/
  | sequencer
  /-- a host transaction (30_encoding R61) -/
  | host (w : BitVec 36)
  /-- `POLL` (30_encoding R72): `RD STATUS`, and again after a sequencer turn, until the value read has bit 0 = 0 -/
  | poll
  /-- an engine command put on the port by a bench, not by the sequencer (log 2) -/
  | port (hdr : BitVec 10) (blk : BitVec 1024)
  /-- a platform action -/
  | platform (a : PlatformAction)
  deriving DecidableEq, Repr

/-- The whole state (10_state R10). A data register that holds no value is `none` (00_scope section 5, R33). -/
structure State.Of (σ : Type) where
  /-- `STATUS.BUSY` (R14) -/
  busy : Bool
  /-- `STATUS.DONE` (R14) -/
  done : Bool
  /-- `STATUS.FAULT` (R14) -/
  fault : Bool
  /-- `STATUS.FAULT_CODE` (R14) -/
  faultCode : BitVec 4
  /-- `KEY_LEN` (R15) -/
  keyLen : Word32
  /-- `DATA_LEN` (R16) -/
  dataLen : Word32
  /-- `KEY_CAP` (R17) -/
  keyCap : Word32
  /-- `DATA_CAP` (R18) -/
  dataCap : Word32
  /-- `DST_CAP` (R19) -/
  dstCap : Word32
  /-- `PH` (R20) -/
  ph : Phase
  /-- `KEYBLK` (R21) -/
  keyblk : Option Block
  /-- `IPAD` (R22) -/
  ipad : Option Block
  /-- `OPAD` (R23) -/
  opad : Option Block
  /-- `IDIG` (R24) -/
  idig : Option Digest
  /-- `H`, an `E.State` (R25) -/
  h : Option σ
  /-- `HS` (R26) -/
  hs : HashLife
  /-- `CTR` (R27) -/
  ctr : Option U128
  /-- `OFF` (R28) -/
  off : Option Word32
  /-- the `KEY` space (R30) -/
  keyMem : Memory
  /-- the `DATA` space (R30) -/
  dataMem : Memory
  /-- the `DST` space (R30) -/
  dstMem : Memory
  /-- the model's own: the turns to come, the next first (log 1) -/
  inputs : List Input
  /-- the model's own: what the latest read transaction returned to the host (R61; log 3) -/
  rdData : Option Word32
  /-- the model's own: the 512-bit `DIGEST` bus of the response to a FINISH run as an instruction of its own
  (30_encoding R64; log 2) -/
  portDigest : Option (BitVec 512)
  deriving DecidableEq, Repr

/-- The state of the machine of the reference engine. -/
abbrev State : Type := State.Of HashState

/-- The state after reset (10_state R33), whatever the engine. The capacities are the platform's: DESIGN CHOICE 0, nothing attached
(log 5); the spaces list no byte; the model's own fields are empty (log 1, 2, 3). -/
def State.resetOf (σ : Type) : State.Of σ :=
  { busy := false, done := false, fault := false, faultCode := 0
    keyLen := 0, dataLen := 0, keyCap := 0, dataCap := 0, dstCap := 0
    ph := .idle
    keyblk := none, ipad := none, opad := none, idig := none
    h := none, hs := .empty, ctr := none, off := none
    keyMem := [], dataMem := [], dstMem := []
    inputs := [], rdData := none, portDigest := none }

/-- The state after reset of the machine of the reference engine. -/
def State.reset : State := State.resetOf HashState

/-- What stops the machine. No instruction does: a fault of the block (60_exceptions R205) is a next state. -/
inductive Fault
  /-- Raised by the platform action `hostWrite` at an offset at or past the space's capacity: no such byte exists
  (10_state R30, "offsets 0 .. C-1"). Safe: the machine stops. -/
  | noSuchByte
  deriving DecidableEq, Repr

/-- What the model gives no meaning. No instruction is refused. -/
inductive Refusal
  /-- Raised by an arm of exec for an instruction without a meaning: none is left. Safe. -/
  | notModelled (mnemonic : String)
  /-- Raised by the platform actions `attach` and `hostWrite` while BUSY = 1: the host breaks its duty (20_memory
  R42, 44_host_interface R179) and is outside the model (93 U3, U4; log 7). Safe: the run stops. -/
  | hostDutyBroken
  /-- Raised by step for a code that is no instruction (30_encoding R68). No state holds one (log 8). Safe. -/
  | undecodable (e : DecodeError)
  deriving DecidableEq, Repr

/-- What an instruction or a step answers. -/
abbrev Result.Of (σ : Type) := Host.Outcome (State.Of σ) Fault Refusal

abbrev Result := Result.Of HashState

end Sys2Proof.Machine
end

