-- ==== Sys2Proof/Machine/Update.lean ====
section
/-! DEFINITION. The named updates of State: each changes the field or fields it names and nothing else
(Laws/State.lean says so, one lemma per field per update). -/

namespace Sys2Proof.Machine

variable {σ : Type}

/-- Write the four fields of `STATUS` (10_state R14). -/
def State.Of.setStatus (s : State.Of σ) (busy done fault : Bool) (code : BitVec 4) : State.Of σ :=
  { s with busy := busy, done := done, fault := fault, faultCode := code }

/-- `PH <- p`. -/
def State.Of.setPh (s : State.Of σ) (p : Phase) : State.Of σ := { s with ph := p }

def State.Of.setKeyLen (s : State.Of σ) (v : Word32) : State.Of σ := { s with keyLen := v }

def State.Of.setDataLen (s : State.Of σ) (v : Word32) : State.Of σ := { s with dataLen := v }

def State.Of.setKeyblk (s : State.Of σ) (v : Option Block) : State.Of σ := { s with keyblk := v }

def State.Of.setIpad (s : State.Of σ) (v : Option Block) : State.Of σ := { s with ipad := v }

def State.Of.setOpad (s : State.Of σ) (v : Option Block) : State.Of σ := { s with opad := v }

def State.Of.setIdig (s : State.Of σ) (v : Option Digest) : State.Of σ := { s with idig := v }

/-- Write `H` and its life-cycle tag `HS` together (10_state R25, R26). -/
def State.Of.setHash (s : State.Of σ) (v : Option σ) (life : HashLife) : State.Of σ := { s with h := v, hs := life }

def State.Of.setCtr (s : State.Of σ) (v : Option U128) : State.Of σ := { s with ctr := v }

def State.Of.setOff (s : State.Of σ) (v : Option Word32) : State.Of σ := { s with off := v }

/-- Replace the bytes of `DST`. -/
def State.Of.setDst (s : State.Of σ) (m : Memory) : State.Of σ := { s with dstMem := m }

/-- Attach a space: its capacity and its bytes. -/
def State.Of.setSpace (s : State.Of σ) (sp : Space) (cap : Word32) (m : Memory) : State.Of σ :=
  match sp with
  | .key => { s with keyCap := cap, keyMem := m }
  | .data => { s with dataCap := cap, dataMem := m }
  | .dst => { s with dstCap := cap, dstMem := m }

def State.Of.setInputs (s : State.Of σ) (l : List Input) : State.Of σ := { s with inputs := l }

def State.Of.setRdData (s : State.Of σ) (v : Option Word32) : State.Of σ := { s with rdData := v }

def State.Of.setPortDigest (s : State.Of σ) (v : Option (BitVec 512)) : State.Of σ := { s with portDigest := v }

end Sys2Proof.Machine
end

