-- ==== Sys2Proof/Machine/Flags.lean ====
section
/-! DEFINITION. Status: the status word, the fault codes, the level outputs, and the three conditions that steer the
sequencer (spec/10_state.md R14, R29; spec/60_exceptions.md R200, R210; spec/44_host_interface.md R190). The block
has no arithmetic flags (R29). -/

namespace Sys2Proof.Machine

variable {σ : Type}

/-- `FAULT_CODE` of a cause (60_exceptions R200). -/
def FaultCause.code : FaultCause → BitVec 4
  | .dstShort => 1
  | .keyShort => 2
  | .dataShort => 3
  | .engineAssert => 4

/-- The value of `STATUS`: `zext_32(BUSY + 2 * DONE + 4 * FAULT + 16 * FAULT_CODE)`; bits 3 and 31:8 read 0
(44_host_interface R190, 10_state R14). -/
def statusWord (s : State.Of σ) : Word32 :=
  BitVec.ofNat 32 (s.busy.toNat + 2 * s.done.toNat + 4 * s.fault.toNat + 16 * s.faultCode.toNat)

/-- `HS` as its two bits (10_state R26). -/
def HashLife.code : HashLife → BitVec 2
  | .empty => 0
  | .absorbing => 1
  | .final => 2

/-- The level output `busy`, a copy of STATUS bit 0 (60_exceptions R210). -/
def State.Of.busyOut (s : State.Of σ) : Bool := (statusWord s).getLsbD 0

/-- The level output `done`, a copy of STATUS bit 1 (R210). -/
def State.Of.doneOut (s : State.Of σ) : Bool := (statusWord s).getLsbD 1

/-- The level output `fault`, a copy of STATUS bit 2 (R210). -/
def State.Of.faultOut (s : State.Of σ) : Bool := (statusWord s).getLsbD 2

/-- `KEY_LEN <= 128`, unsigned (10_state R29, 43_orchestrator R160). -/
def keyIsShort (keyLen : Word32) : Bool := keyLen.toNat ≤ 128

/-- `DATA_LEN = 0` (R29). -/
def messageIsEmpty (dataLen : Word32) : Bool := dataLen == 0

/-- `LEN - OFF > 128` on 32-bit unsigned values (R29, R160). The subtraction never borrows in a run; elsewhere it
wraps (log 12). -/
def moreThanBlock (len off : Word32) : Bool := 128 < (len - off).toNat

/-- `CTR_LO = CTR[63:0]` and `CTR_HI = CTR[127:64]` (10_state R27). -/
def ctrLo (c : U128) : Word64 := c.extractLsb' 0 64
def ctrHi (c : U128) : Word64 := c.extractLsb' 64 64

end Sys2Proof.Machine
end

