-- ==== Sys2Proof/Machine/Operands.lean ====
section
/-! DEFINITION. Operands: registers by number, data registers, operand spaces, the engine port's byte lanes, phase
codes (spec/10_state.md sections 2 to 6; spec/30_encoding.md R63, R64). -/

namespace Sys2Proof.Machine

variable {σ : Type}

/-- The value a read of a host register returns (10_state R13 to R19): CTRL and register 7 read 0. -/
def hostReg (s : State.Of σ) (reg : BitVec 3) : Word32 :=
  match reg with
  | 1#3 => statusWord s
  | 2#3 => s.keyLen
  | 3#3 => s.dataLen
  | 4#3 => s.keyCap
  | 5#3 => s.dataCap
  | 6#3 => s.dstCap
  | _ => 0

/-- Read a data register: one that holds no value raises ENGINE_ASSERT (00_scope section 5; 60_exceptions R204
case 3). -/
def need {α : Type} (r : Option α) : Except FaultCause α :=
  match r with
  | some v => .ok v
  | none => .error .engineAssert

/-- `CAP(S)` (20_memory R41). -/
def State.Of.cap (s : State.Of σ) : Space → Word32
  | .key => s.keyCap
  | .data => s.dataCap
  | .dst => s.dstCap

/-- The bytes of a space. -/
def State.Of.mem (s : State.Of σ) : Space → Memory
  | .key => s.keyMem
  | .data => s.dataMem
  | .dst => s.dstMem

/-- Byte `i` of one of the port's buses, bits `8i+7 : 8i` (30_encoding R64; 20_memory R46). -/
def laneByte {w : Nat} (bus : BitVec w) (i : Nat) : Byte := bus.extractLsb' (8 * i) 8

/-- The first `n` lanes of a bus; the lanes from `n` on are not looked at (R64). -/
def laneBytes {w : Nat} (bus : BitVec w) (n : Nat) : List Byte := (List.range n).map (laneByte bus)

/-- All 128 lanes of `BLK` as a block. -/
def laneBlock (blk : BitVec 1024) : Block := ⟨laneBytes blk 128, by simp [laneBytes]⟩

/-- Bytes put on a bus of `w` bits, byte `i` in lane `i`, the other lanes 0. -/
def busOf (w : Nat) (bytes : List Byte) : BitVec w := BitVec.ofNat w (leNat bytes)

/-- The 512-bit `DIGEST` bus of a digest: byte `i` in bits `8i+7 : 8i` (R64). -/
def digestBus (d : Digest) : BitVec 512 := busOf 512 d.toList

/-- `PH` as its five bits (10_state R20). -/
def Phase.code : Phase → BitVec 5
  | .idle => 0x00
  | .check => 0x01
  | .kbClear => 0x02
  | .knCopy => 0x03
  | .khInit => 0x04
  | .khMulti => 0x05
  | .khLast => 0x06
  | .khFinish => 0x07
  | .pdIpad => 0x08
  | .pdOpad => 0x09
  | .inInit => 0x0A
  | .inPadLast => 0x0B
  | .inPadMulti => 0x0C
  | .inMsgMulti => 0x0D
  | .inMsgLast => 0x0E
  | .inFinish => 0x0F
  | .outInit => 0x10
  | .outPadMulti => 0x11
  | .outDigLast => 0x12
  | .outFinish => 0x13
  | .retire => 0x14
  | .faulted => 0x1F

/-- The micro-operation, or resting phase, a phase names (R20). -/
def Phase.instr : Phase → Instr
  | .idle => .idle
  | .check => .check
  | .kbClear => .kbClear
  | .knCopy => .knCopy
  | .khInit => .khInit
  | .khMulti => .khMulti
  | .khLast => .khLast
  | .khFinish => .khFinish
  | .pdIpad => .pdIpad
  | .pdOpad => .pdOpad
  | .inInit => .inInit
  | .inPadLast => .inPadLast
  | .inPadMulti => .inPadMulti
  | .inMsgMulti => .inMsgMulti
  | .inMsgLast => .inMsgLast
  | .inFinish => .inFinish
  | .outInit => .outInit
  | .outPadMulti => .outPadMulti
  | .outDigLast => .outDigLast
  | .outFinish => .outFinish
  | .retire => .retire
  | .faulted => .faulted

/-- Every phase, in code order. -/
def allPhases : List Phase :=
  [.idle, .check, .kbClear, .knCopy, .khInit, .khMulti, .khLast, .khFinish, .pdIpad, .pdOpad, .inInit,
   .inPadLast, .inPadMulti, .inMsgMulti, .inMsgLast, .inFinish, .outInit, .outPadMulti, .outDigLast,
   .outFinish, .retire, .faulted]

/-- The phase of a code, none for a reserved one (R68). -/
def Phase.ofCode (c : BitVec 5) : Option Phase := allPhases.find? fun p => p.code == c

/-- A sequencer step is enabled exactly when `0x01 <= PH <= 0x14` (44_host_interface R180). -/
def Phase.enabled (p : Phase) : Bool := 0x01 ≤ p.code.toNat && p.code.toNat ≤ 0x14

end Sys2Proof.Machine
end

