-- ==== Sys2Proof/Machine/Ops.lean ====
section
/-! DEFINITION. The shared operations: memory (spec/20_memory.md), byte arrays, the engine port
(spec/42_hash_engine_port.md R111 to R116), taking a fault (spec/60_exceptions.md R205) and reset, the only way out of
one (spec/70_reset_and_hazards.md R230). A micro-operation is a function to `Except FaultCause State`: it completes
with a new state or it faults, and `commit` turns that into the step's answer. -/

namespace Sys2Proof.Machine

variable {σ : Type}

/-! ### Memory -/

/-- What an offset that is not listed reads as. DESIGN CHOICE (log 6): the spec leaves such contents to the
host. -/
def unlistedByte : Byte := 0

/-- The canonical form: offsets strictly rising, no byte equal to what an unlisted offset reads as. -/
abbrev Memory.wf (m : Memory) : Prop :=
  m.Pairwise (fun c d => c.1 < d.1) ∧ ∀ c ∈ m, c.2 ≠ unlistedByte

/-- Every listed offset is below `n`. -/
abbrev Memory.below (m : Memory) (n : Nat) : Prop := ∀ c ∈ m, c.1 < n

/-- Read one byte. -/
def Memory.read : Memory → Nat → Byte
  | [], _ => unlistedByte
  | c :: m, a => if c.1 = a then c.2 else Memory.read m a

/-- Put a byte in front of later cells: not listed where it equals an unlisted one. -/
def Memory.put (a : Nat) (b : Byte) (m : Memory) : Memory := if b = unlistedByte then m else (a, b) :: m

/-- Write one byte, keeping the canonical form. -/
def Memory.write : Memory → Nat → Byte → Memory
  | [], a, b => Memory.put a b []
  | c :: m, a, b =>
    if a < c.1 then Memory.put a b (c :: m)
    else if a = c.1 then Memory.put a b m
    else c :: Memory.write m a b

/-- The `n` bytes at `off`, lowest offset first (20_memory R43, R46). -/
def Memory.readBytes (m : Memory) : Nat → Nat → List Byte
  | _, 0 => []
  | off, n + 1 => Memory.read m off :: Memory.readBytes m (off + 1) n

/-- Store bytes from `off` on, lowest offset first (20_memory R44, R46). -/
def Memory.writeBytes : Memory → Nat → List Byte → Memory
  | m, _, [] => m
  | m, off, b :: bs => Memory.writeBytes (Memory.write m off b) (off + 1) bs

theorem Memory.length_readBytes (m : Memory) (off n : Nat) : (Memory.readBytes m off n).length = n := by
  induction n generalizing off with
  | zero => rfl
  | succ n ih => simp [Memory.readBytes, ih]

/-- `MemRead(S, off, n)` (20_memory R43): in bounds when `off + n <= CAP(S)`, otherwise ENGINE_ASSERT. It takes `n`
in `0 .. 128`; a longer one, which no run asks for, raises ENGINE_ASSERT too (log 11). -/
def memRead (sp : Space) (off n : Nat) (s : State.Of σ) : Except FaultCause (Bytes n) :=
  if n ≤ 128 ∧ off + n ≤ (s.cap sp).toNat then
    .ok ⟨Memory.readBytes (s.mem sp) off n, Memory.length_readBytes _ _ _⟩
  else .error .engineAssert

/-- `MemWrite(DST, off, n, v)` (20_memory R44), `n = |v|`. -/
def memWrite (off : Nat) (v : List Byte) (s : State.Of σ) : Except FaultCause (State.Of σ) :=
  if off + v.length ≤ s.dstCap.toNat then .ok (s.setDst (Memory.writeBytes s.dstMem off v))
  else .error .engineAssert

/-! ### Byte arrays -/

/-- `X[0 .. |l|) <- l`: bytes from `|l|` on keep their values (40_key_normalizer R83, R87). -/
def overwrite {n : Nat} (x : Bytes n) (l : List Byte) : Bytes n :=
  ⟨(l ++ x.toList.drop l.length).take n, by
    simp only [List.length_take, List.length_append, List.length_drop, x.length_toList]; omega⟩

/-- Byte `i` is `k xor X[i]` (41_pad_deriver R100). -/
def xorPad {n : Nat} (k : Byte) (x : Bytes n) : Bytes n :=
  ⟨x.toList.map (k ^^^ ·), by simp [x.length_toList]⟩

/-! ### Faults and reset -/

/-- Fault entry (60_exceptions R205): these four writes and no other. -/
def raiseFault (c : FaultCause) (s : State.Of σ) : State.Of σ :=
  (s.setStatus false s.done true c.code).setPh .faulted

/-- A step completes with its new state, or faults and has no other effect (R205). -/
def commit (s : State.Of σ) (r : Except FaultCause (State.Of σ)) : Result.Of σ :=
  match r with
  | .ok t => .next t
  | .error c => .next (raiseFault c s)

/-- Reset (70_reset R230), the only way out of a fault (60_exceptions R207). The spaces and the capacities are not
the block's and are not touched, nor are the model's own fields (log 1, 2, 3). -/
def takeReset (s : State.Of σ) : State.Of σ :=
  { s with
    ph := .idle
    busy := false, done := false, fault := false, faultCode := 0
    keyLen := 0, dataLen := 0
    hs := .empty
    keyblk := none, ipad := none, opad := none, idig := none, h := none, ctr := none, off := none }

/-- What the platform and the host do outside the register file: reset in every state; the spaces only while
BUSY = 0 (20_memory R42). -/
def platformAct (a : PlatformAction) (s : State.Of σ) : Result.Of σ :=
  match a with
  | .reset => .next (takeReset s)
  | .attach sp cap bytes =>
    if s.busy then .refused .hostDutyBroken
    else .next (s.setSpace sp cap (Memory.writeBytes [] 0 (bytes.take cap.toNat)))
  | .hostWrite sp off b =>
    if s.busy then .refused .hostDutyBroken
    else if off < s.cap sp then .next (s.setSpace sp (s.cap sp) (Memory.write (s.mem sp) off.toNat b))
    else .fault .noSuchByte

/-! ### The engine port (42_hash_engine_port R111 to R116)

`len` is the command's `LEN`; `H` and `CTR` travel as `STATE_IN` and `CTR_IN`. A command that breaks a requirement
of R116 raises ENGINE_ASSERT and changes nothing else. -/

/-- `INIT` (R111): legal in any `HS`. -/
def portInit (E : Engine σ) (len : Byte) (s : State.Of σ) : Except FaultCause (State.Of σ) :=
  if len = 0 then .ok ((s.setHash (some E.init) .absorbing).setCtr (some 0)) else .error .engineAssert

/-- `UPDATE_MULTI` (R112). -/
def portUpdateMulti (E : Engine σ) (len : Byte) (blk : Block) (s : State.Of σ) : Except FaultCause (State.Of σ) :=
  if s.hs = .absorbing ∧ len = 128 then do
    let h ← need s.h
    let c ← need s.ctr
    let r := E.updateMulti h c blk
    .ok ((s.setHash (some r.1) .absorbing).setCtr (some r.2))
  else .error .engineAssert

/-- `UPDATE_LAST` (R114). -/
def portUpdateLast (E : Engine σ) (len : Byte) (chunk : List Byte) (s : State.Of σ) : Except FaultCause (State.Of σ) :=
  if s.hs = .absorbing ∧ len.toNat ≤ 128 then do
    let h ← need s.h
    let c ← need s.ctr
    let r := E.updateLast h c chunk
    .ok ((s.setHash (some r.1) .final).setCtr (some r.2))
  else .error .engineAssert

/-- `FINISH` (R115): the digest, and the state with `H` consumed. -/
def portFinish (E : Engine σ) (len : Byte) (s : State.Of σ) : Except FaultCause (Digest × State.Of σ) :=
  if s.hs = .final ∧ len = 0 then do
    let h ← need s.h
    let c ← need s.ctr
    .ok (E.finish h c, s.setHash none .empty)
  else .error .engineAssert

end Sys2Proof.Machine
end

