-- ==== Sys2Proof/Machine/Control.lean ====
section
/-! DEFINITION. The micro-operations that open and close a COMPUTE, CHECK and RETIRE, and the two resting phases,
IDLE and FAULTED (spec/44_host_interface.md R180, R194, R195; spec/60_exceptions.md R205). -/

namespace Sys2Proof.Machine

variable {σ : Type}

/-- CHECK (R194): unsigned comparisons, the lowest code first (60_exceptions R206). -/
def check (s : State.Of σ) : Except FaultCause (State.Of σ) :=
  if s.dstCap.toNat < 64 then .error .dstShort
  else if s.keyCap.toNat < s.keyLen.toNat then .error .keyShort
  else if s.dataCap.toNat < s.dataLen.toNat then .error .dataShort
  else .ok (s.setPh .kbClear)

/-- RETIRE (R195). -/
def retire (s : State.Of σ) : Except FaultCause (State.Of σ) :=
  .ok (((((((s.setIpad none).setOpad none).setIdig none).setCtr none).setOff none).setStatus
    false true s.fault s.faultCode).setPh .idle)

/-- A resting phase: no sequencer step is enabled, nothing changes (R180; log 9). -/
def rest (s : State.Of σ) : Except FaultCause (State.Of σ) := .ok s

def execCheck (s : State.Of σ) : Result.Of σ := commit s (check s)

def execRetire (s : State.Of σ) : Result.Of σ := commit s (retire s)

/-- IDLE: the block waits for START (R180). -/
def execIdle (s : State.Of σ) : Result.Of σ := commit s (rest s)

/-- FAULTED: the block waits for reset (60_exceptions R205, R207). -/
def execFaulted (s : State.Of σ) : Result.Of σ := commit s (rest s)

end Sys2Proof.Machine
end

