-- ==== Sys2Proof/Machine/Engine.lean ====
section
/-! DEFINITION. The reference Hash Engine: BLAKE2b-512, unkeyed (spec/42_hash_engine_port.md R120 to R127,
"[from general knowledge, not in source]", spec/93_implementation_defined.md G1). PRESUMED (log 4): the spec leaves
the engine a parameter (R7, D26), and so does the model (Machine/EveryEngine.lean); the host's interface runs the
machine of this one. -/

namespace Sys2Proof.Machine

/-- The initialization words `IV[0..7]` (R120). -/
def blakeIV : List Word64 :=
  [0x6a09e667f3bcc908, 0xbb67ae8584caa73b, 0x3c6ef372fe94f82b, 0xa54ff53a5f1d36f1,
   0x510e527fade682d1, 0x9b05688c2b3e6c1f, 0x1f83d9abfb41bd6b, 0x5be0cd19137e2179]

/-- The message schedule (R123). -/
def blakeSigma : List (List Nat) :=
  [[0, 1, 2, 3, 4, 5, 6, 7, 8, 9, 10, 11, 12, 13, 14, 15],
   [14, 10, 4, 8, 9, 15, 13, 6, 1, 12, 0, 2, 11, 7, 5, 3],
   [11, 8, 12, 0, 5, 2, 15, 13, 10, 14, 3, 6, 7, 1, 9, 4],
   [7, 9, 3, 1, 13, 12, 11, 14, 2, 6, 5, 10, 4, 0, 15, 8],
   [9, 0, 5, 7, 2, 4, 10, 15, 14, 1, 11, 12, 6, 8, 3, 13],
   [2, 12, 6, 10, 0, 11, 8, 3, 4, 13, 7, 5, 15, 14, 1, 9],
   [12, 5, 1, 15, 14, 13, 4, 10, 0, 7, 6, 3, 9, 2, 8, 11],
   [13, 11, 7, 14, 12, 1, 3, 9, 5, 0, 15, 4, 8, 6, 2, 10],
   [6, 15, 14, 9, 11, 3, 0, 8, 12, 2, 13, 7, 1, 4, 10, 5],
   [10, 2, 8, 4, 7, 6, 1, 5, 15, 11, 9, 14, 3, 12, 13, 0]]

/-- Byte `k` of a 64-bit word, `(w >> 8k) mod 256` (R121). -/
def wordByte (w : Word64) (k : Nat) : Byte := (w >>> (8 * k)).setWidth 8

/-- The eight bytes of a word, little-endian (R121). -/
def wordBytes (w : Word64) : List Byte :=
  [wordByte w 0, wordByte w 1, wordByte w 2, wordByte w 3,
   wordByte w 4, wordByte w 5, wordByte w 6, wordByte w 7]

/-- Message word `m[j]` of a block (R121). -/
def blockWord (b : List Byte) (j : Nat) : Word64 :=
  BitVec.ofNat 64 (leNat ((b.drop (8 * j)).take 8))

/-- The sixteen message words of a block (R121). -/
def blockWords (b : List Byte) : List Word64 := (List.range 16).map (blockWord b)

/-- The mixing function `G` on the working vector (R122). -/
def blakeG (v : List Word64) (a b c d : Nat) (x y : Word64) : List Word64 :=
  let a1 := v.getD a 0 + v.getD b 0 + x
  let d1 := (v.getD d 0 ^^^ a1).rotateRight 32
  let c1 := v.getD c 0 + d1
  let b1 := (v.getD b 0 ^^^ c1).rotateRight 24
  let a2 := a1 + b1 + y
  let d2 := (d1 ^^^ a2).rotateRight 16
  let c2 := c1 + d2
  let b2 := (b1 ^^^ c2).rotateRight 63
  (((v.set a a2).set b b2).set c c2).set d d2

/-- One round under a schedule row `s`: the eight mixings (R124). -/
def blakeRound (m : List Word64) (v : List Word64) (s : List Nat) : List Word64 :=
  let w (i : Nat) : Word64 := m.getD (s.getD i 0) 0
  let v := blakeG v 0 4 8 12 (w 0) (w 1)
  let v := blakeG v 1 5 9 13 (w 2) (w 3)
  let v := blakeG v 2 6 10 14 (w 4) (w 5)
  let v := blakeG v 3 7 11 15 (w 6) (w 7)
  let v := blakeG v 0 5 10 15 (w 8) (w 9)
  let v := blakeG v 1 6 11 12 (w 10) (w 11)
  let v := blakeG v 2 7 8 13 (w 12) (w 13)
  blakeG v 3 4 9 14 (w 14) (w 15)

/-- The twelve schedule rows of a compression: rounds 10 and 11 reuse rows 0 and 1 (R124). -/
def blakeSchedule : List (List Nat) := blakeSigma ++ blakeSigma.take 2

/-- The eight words of a state. -/
def hashWords (h : HashState) : List Word64 := [h.h0, h.h1, h.h2, h.h3, h.h4, h.h5, h.h6, h.h7]

/-- The working vector before the rounds (R124): `t` is xor-ed into `v[12]`, `v[13]`, the flag inverts `v[14]`. -/
def blakeStart (h : HashState) (t : U128) (last : Bool) : List Word64 :=
  let iv (i : Nat) : Word64 := blakeIV.getD i 0
  hashWords h ++
    [iv 0, iv 1, iv 2, iv 3, iv 4 ^^^ t.setWidth 64, iv 5 ^^^ (t >>> 64).setWidth 64,
     if last then iv 6 ^^^ BitVec.allOnes 64 else iv 6, iv 7]

/-- The compression function `F` (R124). -/
def blakeF (h : HashState) (b : List Byte) (t : U128) (last : Bool) : HashState :=
  let v := blakeSchedule.foldl (blakeRound (blockWords b)) (blakeStart h t last)
  let x (i : Nat) : Word64 := v.getD i 0 ^^^ v.getD (i + 8) 0
  ⟨h.h0 ^^^ x 0, h.h1 ^^^ x 1, h.h2 ^^^ x 2, h.h3 ^^^ x 3,
   h.h4 ^^^ x 4, h.h5 ^^^ x 5, h.h6 ^^^ x 6, h.h7 ^^^ x 7⟩

/-- Reference `E.init()` (R125): `h[0]` carries the parameter word `0x01010040`. -/
def blakeInit : HashState :=
  let iv (i : Nat) : Word64 := blakeIV.getD i 0
  ⟨iv 0 ^^^ 0x0000000001010040, iv 1, iv 2, iv 3, iv 4, iv 5, iv 6, iv 7⟩

/-- Reference `E.update_multi` (R126): the counter fed to `F` is the count after the block. -/
def blakeUpdateMulti (h : HashState) (c : U128) (b : Block) : HashState × U128 :=
  (blakeF h b.toList (c + 128) false, c + 128)

/-- Reference `E.update_last` (R126): zero padding, total length, final flag. -/
def blakeUpdateLast (h : HashState) (c : U128) (x : List Byte) : HashState × U128 :=
  let c' := c + BitVec.ofNat 128 x.length
  (blakeF h (x ++ List.replicate (128 - x.length) 0) c' true, c')

/-- Reference `E.finish` (R127): `h[0] .. h[7]` little-endian; the counter is not used. -/
def blakeFinish (h : HashState) (_c : U128) : Digest :=
  ⟨(hashWords h).flatMap wordBytes, rfl⟩

/-- The reference instantiation as an engine. -/
def blake2b : Engine HashState :=
  { init := blakeInit, updateMulti := blakeUpdateMulti, updateLast := blakeUpdateLast, finish := blakeFinish }

/-- The engine of `exec` and `step`. PRESUMED (log 4): the spec's reference instantiation. -/
def engine : Engine HashState := blake2b

end Sys2Proof.Machine
end

