-- ==== Sys2Proof/Machine/EnginePort.lean ====
section
/-! DEFINITION. The four engine commands run as instructions of their own (spec/42_hash_engine_port.md R111, R112,
R114, R115; log 2), for every engine `E`; the machine's meanings take `engine`. They go through the port operations the
micro-operations use; `PH` is not written (log 2), and the `DIGEST` response of FINISH stands in `portDigest`. -/

namespace Sys2Proof.Machine

variable {σ : Type}

/-- INIT (R111). -/
def initCommand (E : Engine σ) (len : Byte) (s : State.Of σ) : Except FaultCause (State.Of σ) := portInit E len s

/-- UPDATE_MULTI (R112): all 128 lanes of `BLK`. -/
def updateMultiCommand (E : Engine σ) (len : Byte) (blk : BitVec 1024) (s : State.Of σ) :
    Except FaultCause (State.Of σ) := portUpdateMulti E len (laneBlock blk) s

/-- UPDATE_LAST (R114): the first `LEN` lanes of `BLK`. -/
def updateLastCommand (E : Engine σ) (len : Byte) (blk : BitVec 1024) (s : State.Of σ) :
    Except FaultCause (State.Of σ) := portUpdateLast E len (laneBytes blk len.toNat) s

/-- FINISH (R115): the digest goes out on the `DIGEST` bus (30_encoding R64). -/
def finishCommand (E : Engine σ) (len : Byte) (s : State.Of σ) : Except FaultCause (State.Of σ) :=
  (portFinish E len s).map fun r => r.2.setPortDigest (some (digestBus r.1))

def execInit (len : Byte) (s : State) : Result := commit s (initCommand engine len s)

def execUpdateMulti (len : Byte) (blk : BitVec 1024) (s : State) : Result :=
  commit s (updateMultiCommand engine len blk s)

def execUpdateLast (len : Byte) (blk : BitVec 1024) (s : State) : Result :=
  commit s (updateLastCommand engine len blk s)

def execFinish (len : Byte) (s : State) : Result := commit s (finishCommand engine len s)

end Sys2Proof.Machine
end

