-- ==== Sys2Proof/Machine/HostPort.lean ====
section
/-! DEFINITION. The 17 host transactions (spec/44_host_interface.md R181 to R193, R196 to R198). A transaction is one
atomic step, always completes, never faults (spec/30_encoding.md R61). Ignored bits are no argument of a meaning. -/

namespace Sys2Proof.Machine

variable {σ : Type}

/-- A write the block ignores: no state changes. -/
def ignoreWrite (s : State.Of σ) : Result.Of σ := .next s

/-- A read of host register `reg`: the value goes to the host, no register changes. -/
def readHostReg (reg : BitVec 3) (s : State.Of σ) : Result.Of σ := .next (s.setRdData (some (hostReg s reg)))

/-- START (R181): accepted when BUSY = 0 and FAULT = 0, otherwise ignored. -/
def execStart (s : State.Of σ) : Result.Of σ :=
  if s.busy = false ∧ s.fault = false then
    .next ((s.setStatus true false s.fault s.faultCode).setPh .check)
  else .next s

/-- WR_CTRL_NOP (R182). -/
def execWrCtrlNop (s : State.Of σ) : Result.Of σ := ignoreWrite s

/-- WR_STATUS (R185). -/
def execWrStatus (s : State.Of σ) : Result.Of σ := ignoreWrite s

/-- WR_KEY_LEN (R183): dropped while BUSY = 1. -/
def execWrKeyLen (data : Word32) (s : State.Of σ) : Result.Of σ :=
  if s.busy then .next s else .next (s.setKeyLen data)

/-- WR_DATA_LEN (R184): dropped while BUSY = 1. -/
def execWrDataLen (data : Word32) (s : State.Of σ) : Result.Of σ :=
  if s.busy then .next s else .next (s.setDataLen data)

/-- WR_KEY_CAP (R186). -/
def execWrKeyCap (s : State.Of σ) : Result.Of σ := ignoreWrite s

/-- WR_DATA_CAP (R187). -/
def execWrDataCap (s : State.Of σ) : Result.Of σ := ignoreWrite s

/-- WR_DST_CAP (R188). -/
def execWrDstCap (s : State.Of σ) : Result.Of σ := ignoreWrite s

/-- WR_RSVD7 (R192). -/
def execWrRsvd7 (s : State.Of σ) : Result.Of σ := ignoreWrite s

/-- RD_CTRL (R189). -/
def execRdCtrl (s : State.Of σ) : Result.Of σ := readHostReg 0 s

/-- RD_STATUS (R190). -/
def execRdStatus (s : State.Of σ) : Result.Of σ := readHostReg 1 s

/-- RD_KEY_LEN (R191). -/
def execRdKeyLen (s : State.Of σ) : Result.Of σ := readHostReg 2 s

/-- RD_DATA_LEN (R193). -/
def execRdDataLen (s : State.Of σ) : Result.Of σ := readHostReg 3 s

/-- RD_KEY_CAP (R196). -/
def execRdKeyCap (s : State.Of σ) : Result.Of σ := readHostReg 4 s

/-- RD_DATA_CAP (R197). -/
def execRdDataCap (s : State.Of σ) : Result.Of σ := readHostReg 5 s

/-- RD_DST_CAP (R198). -/
def execRdDstCap (s : State.Of σ) : Result.Of σ := readHostReg 6 s

/-- RD_RSVD7 (R192). -/
def execRdRsvd7 (s : State.Of σ) : Result.Of σ := readHostReg 7 s

end Sys2Proof.Machine
end

