-- ==== Sys2Proof/Machine/KeyNormalizer.lean ====
section
/-! DEFINITION. The key normalizer: KB_CLEAR, KN_COPY, KH_INIT, KH_MULTI, KH_LAST, KH_FINISH
(spec/40_key_normalizer.md R82 to R87). Where a micro-operation issues an engine command it is written for every
engine `E`; the machine's meaning takes `engine`. -/

namespace Sys2Proof.Machine

variable {σ : Type}

/-- KB_CLEAR (R82). -/
def kbClear (s : State.Of σ) : Except FaultCause (State.Of σ) :=
  .ok ((s.setKeyblk (some (Bytes.zeros 128))).setPh (if keyIsShort s.keyLen then .knCopy else .khInit))

/-- KN_COPY (R83). A KEYBLK that holds no value, which no run has here, raises ENGINE_ASSERT (log 10). -/
def knCopy (s : State.Of σ) : Except FaultCause (State.Of σ) := do
  let kb ← need s.keyblk
  let k ← memRead .key 0 s.keyLen.toNat s
  .ok ((s.setKeyblk (some (overwrite kb k.toList))).setPh .pdIpad)

/-- KH_INIT (R84). -/
def khInit (E : Engine σ) (s : State.Of σ) : Except FaultCause (State.Of σ) := do
  let t ← portInit E 0 s
  .ok ((t.setOff (some 0)).setPh .khMulti)

/-- KH_MULTI (R85): the branch is on the advanced offset (43_orchestrator R141). -/
def khMulti (E : Engine σ) (s : State.Of σ) : Except FaultCause (State.Of σ) := do
  let off ← need s.off
  let blk ← memRead .key off.toNat 128 s
  let t ← portUpdateMulti E 128 blk s
  .ok ((t.setOff (some (off + 128))).setPh
    (if moreThanBlock s.keyLen (off + 128) then .khMulti else .khLast))

/-- KH_LAST (R86). -/
def khLast (E : Engine σ) (s : State.Of σ) : Except FaultCause (State.Of σ) := do
  let off ← need s.off
  let r := s.keyLen - off
  let chunk ← memRead .key off.toNat r.toNat s
  let t ← portUpdateLast E (r.setWidth 8) chunk.toList s
  .ok ((t.setOff (some (off + r))).setPh .khFinish)

/-- KH_FINISH (R87): the digest goes to KEYBLK[0..64) (log 10 for a KEYBLK that holds no value). -/
def khFinish (E : Engine σ) (s : State.Of σ) : Except FaultCause (State.Of σ) := do
  let kb ← need s.keyblk
  let r ← portFinish E 0 s
  .ok ((r.2.setKeyblk (some (overwrite kb r.1.toList))).setPh .pdIpad)

def execKbClear (s : State.Of σ) : Result.Of σ := commit s (kbClear s)

def execKnCopy (s : State.Of σ) : Result.Of σ := commit s (knCopy s)

def execKhInit (s : State) : Result := commit s (khInit engine s)

def execKhMulti (s : State) : Result := commit s (khMulti engine s)

def execKhLast (s : State) : Result := commit s (khLast engine s)

def execKhFinish (s : State) : Result := commit s (khFinish engine s)

end Sys2Proof.Machine
end

