-- ==== Sys2Proof/Machine/Orchestrator.lean ====
section
/-! DEFINITION. The two-pass orchestrator: the inner pass IN_INIT to IN_FINISH and the outer pass OUT_INIT to
OUT_FINISH (spec/43_orchestrator.md R150 to R159), for every engine `E`; the machine's meanings take `engine`. -/

namespace Sys2Proof.Machine

variable {σ : Type}

/-- IN_INIT (R150). -/
def inInit (E : Engine σ) (s : State.Of σ) : Except FaultCause (State.Of σ) := do
  let t ← portInit E 0 s
  .ok ((t.setOff (some 0)).setPh (if messageIsEmpty s.dataLen then .inPadLast else .inPadMulti))

/-- IN_PAD_LAST (R151): the pad is the whole inner stream, `LEN = 128`. -/
def inPadLast (E : Engine σ) (s : State.Of σ) : Except FaultCause (State.Of σ) := do
  let pad ← need s.ipad
  let t ← portUpdateLast E 128 pad.toList s
  .ok (t.setPh .inFinish)

/-- IN_PAD_MULTI (R152). -/
def inPadMulti (E : Engine σ) (s : State.Of σ) : Except FaultCause (State.Of σ) := do
  let pad ← need s.ipad
  let off ← need s.off
  let t ← portUpdateMulti E 128 pad s
  .ok (t.setPh (if moreThanBlock s.dataLen off then .inMsgMulti else .inMsgLast))

/-- IN_MSG_MULTI (R153): the branch is on the advanced offset (R141). -/
def inMsgMulti (E : Engine σ) (s : State.Of σ) : Except FaultCause (State.Of σ) := do
  let off ← need s.off
  let blk ← memRead .data off.toNat 128 s
  let t ← portUpdateMulti E 128 blk s
  .ok ((t.setOff (some (off + 128))).setPh
    (if moreThanBlock s.dataLen (off + 128) then .inMsgMulti else .inMsgLast))

/-- IN_MSG_LAST (R154). -/
def inMsgLast (E : Engine σ) (s : State.Of σ) : Except FaultCause (State.Of σ) := do
  let off ← need s.off
  let r := s.dataLen - off
  let chunk ← memRead .data off.toNat r.toNat s
  let t ← portUpdateLast E (r.setWidth 8) chunk.toList s
  .ok ((t.setOff (some (off + r))).setPh .inFinish)

/-- IN_FINISH (R155). -/
def inFinish (E : Engine σ) (s : State.Of σ) : Except FaultCause (State.Of σ) := do
  let r ← portFinish E 0 s
  .ok ((r.2.setIdig (some r.1)).setPh .outInit)

/-- OUT_INIT (R156). -/
def outInit (E : Engine σ) (s : State.Of σ) : Except FaultCause (State.Of σ) := do
  let t ← portInit E 0 s
  .ok ((t.setOff (some 0)).setPh .outPadMulti)

/-- OUT_PAD_MULTI (R157). -/
def outPadMulti (E : Engine σ) (s : State.Of σ) : Except FaultCause (State.Of σ) := do
  let pad ← need s.opad
  let t ← portUpdateMulti E 128 pad s
  .ok (t.setPh .outDigLast)

/-- OUT_DIG_LAST (R158): the inner digest, `LEN = 64`. -/
def outDigLast (E : Engine σ) (s : State.Of σ) : Except FaultCause (State.Of σ) := do
  let d ← need s.idig
  let t ← portUpdateLast E 64 d.toList s
  .ok (t.setPh .outFinish)

/-- OUT_FINISH (R159): the only write to DST. -/
def outFinish (E : Engine σ) (s : State.Of σ) : Except FaultCause (State.Of σ) := do
  let r ← portFinish E 0 s
  let t ← memWrite 0 r.1.toList r.2
  .ok (t.setPh .retire)

def execInInit (s : State) : Result := commit s (inInit engine s)

def execInPadLast (s : State) : Result := commit s (inPadLast engine s)

def execInPadMulti (s : State) : Result := commit s (inPadMulti engine s)

def execInMsgMulti (s : State) : Result := commit s (inMsgMulti engine s)

def execInMsgLast (s : State) : Result := commit s (inMsgLast engine s)

def execInFinish (s : State) : Result := commit s (inFinish engine s)

def execOutInit (s : State) : Result := commit s (outInit engine s)

def execOutPadMulti (s : State) : Result := commit s (outPadMulti engine s)

def execOutDigLast (s : State) : Result := commit s (outDigLast engine s)

def execOutFinish (s : State) : Result := commit s (outFinish engine s)

end Sys2Proof.Machine
end

