-- ==== Sys2Proof/Machine/PadDeriver.lean ====
section
/-! DEFINITION. The pad deriver: PD_IPAD and PD_OPAD (spec/41_pad_deriver.md R101, R102). -/

namespace Sys2Proof.Machine

variable {σ : Type}

/-- PD_IPAD (R101). -/
def pdIpad (s : State.Of σ) : Except FaultCause (State.Of σ) := do
  let kb ← need s.keyblk
  .ok ((s.setIpad (some (xorPad Config.ipadByte kb))).setPh .pdOpad)

/-- PD_OPAD (R102): the key block is discarded. -/
def pdOpad (s : State.Of σ) : Except FaultCause (State.Of σ) := do
  let kb ← need s.keyblk
  .ok (((s.setOpad (some (xorPad Config.opadByte kb))).setKeyblk none).setPh .inInit)

def execPdIpad (s : State.Of σ) : Result.Of σ := commit s (pdIpad s)

def execPdOpad (s : State.Of σ) : Result.Of σ := commit s (pdOpad s)

end Sys2Proof.Machine
end

