-- ==== Sys2Proof/Machine/Dispatch.lean ====
section
/-! DEFINITION. The meaning of every instruction: one arm per row of spec/opcode_table.json. -/

namespace Sys2Proof.Machine

def exec (i : Instr) (s : State) : Host.Outcome State Fault Refusal :=
  match i with
  | .start _ => Sys2Proof.Machine.execStart s
  | .wrCtrlNop _ => Sys2Proof.Machine.execWrCtrlNop s
  | .wrStatus _ => Sys2Proof.Machine.execWrStatus s
  | .wrKeyLen data => Sys2Proof.Machine.execWrKeyLen data s
  | .wrDataLen data => Sys2Proof.Machine.execWrDataLen data s
  | .wrKeyCap _ => Sys2Proof.Machine.execWrKeyCap s
  | .wrDataCap _ => Sys2Proof.Machine.execWrDataCap s
  | .wrDstCap _ => Sys2Proof.Machine.execWrDstCap s
  | .wrRsvd7 _ => Sys2Proof.Machine.execWrRsvd7 s
  | .rdCtrl _ => Sys2Proof.Machine.execRdCtrl s
  | .rdStatus _ => Sys2Proof.Machine.execRdStatus s
  | .rdKeyLen _ => Sys2Proof.Machine.execRdKeyLen s
  | .rdDataLen _ => Sys2Proof.Machine.execRdDataLen s
  | .rdKeyCap _ => Sys2Proof.Machine.execRdKeyCap s
  | .rdDataCap _ => Sys2Proof.Machine.execRdDataCap s
  | .rdDstCap _ => Sys2Proof.Machine.execRdDstCap s
  | .rdRsvd7 _ => Sys2Proof.Machine.execRdRsvd7 s
  | .idle => Sys2Proof.Machine.execIdle s
  | .check => Sys2Proof.Machine.execCheck s
  | .kbClear => Sys2Proof.Machine.execKbClear s
  | .knCopy => Sys2Proof.Machine.execKnCopy s
  | .khInit => Sys2Proof.Machine.execKhInit s
  | .khMulti => Sys2Proof.Machine.execKhMulti s
  | .khLast => Sys2Proof.Machine.execKhLast s
  | .khFinish => Sys2Proof.Machine.execKhFinish s
  | .pdIpad => Sys2Proof.Machine.execPdIpad s
  | .pdOpad => Sys2Proof.Machine.execPdOpad s
  | .inInit => Sys2Proof.Machine.execInInit s
  | .inPadLast => Sys2Proof.Machine.execInPadLast s
  | .inPadMulti => Sys2Proof.Machine.execInPadMulti s
  | .inMsgMulti => Sys2Proof.Machine.execInMsgMulti s
  | .inMsgLast => Sys2Proof.Machine.execInMsgLast s
  | .inFinish => Sys2Proof.Machine.execInFinish s
  | .outInit => Sys2Proof.Machine.execOutInit s
  | .outPadMulti => Sys2Proof.Machine.execOutPadMulti s
  | .outDigLast => Sys2Proof.Machine.execOutDigLast s
  | .outFinish => Sys2Proof.Machine.execOutFinish s
  | .retire => Sys2Proof.Machine.execRetire s
  | .faulted => Sys2Proof.Machine.execFaulted s
  | .init len => Sys2Proof.Machine.execInit len s
  | .updateMulti len blk => Sys2Proof.Machine.execUpdateMulti len blk s
  | .updateLast len blk => Sys2Proof.Machine.execUpdateLast len blk s
  | .finish len => Sys2Proof.Machine.execFinish len s

end Sys2Proof.Machine
end

