-- ==== Sys2Proof/Machine/Fetch.lean ====
section
/-! DEFINITION. Which turn is next, and the code of the instruction it runs (spec/44_host_interface.md R180; log 1,
14). The block fetches no instruction from memory (spec/20_memory.md R56): a host transaction and a bench's engine
command come with their turn, a micro-operation is the one `PH` names. -/

namespace Sys2Proof.Machine

variable {σ : Type}

/-- What a turn runs: an instruction's code or a platform action. -/
inductive Turn
  | run (c : Code)
  | act (a : PlatformAction)
  deriving DecidableEq, Repr

/-- `RD STATUS`, the canonical word (30_encoding R62). -/
def readStatus : BitVec 36 := htWord 0 1 0

/-- The next turn, and the state with that turn taken off the schedule. With no turn scheduled the sequencer moves,
so that no finite schedule holds it back for ever (R180). A POLL reads STATUS and, where the value read has bit 0
(`BUSY`) = 1, stays on the schedule behind a turn of the sequencer (30_encoding R72; log 1). -/
def nextTurn (s : State.Of σ) : Turn × State.Of σ :=
  match s.inputs with
  | [] => (.run (.ph s.ph.code), s)
  | .sequencer :: rest => (.run (.ph s.ph.code), s.setInputs rest)
  | .host w :: rest => (.run (.ht w), s.setInputs rest)
  | .poll :: rest => (.run (.ht readStatus), s.setInputs (if s.busy then .sequencer :: .poll :: rest else rest))
  | .port hdr blk :: rest => (.run (.ec hdr blk), s.setInputs rest)
  | .platform a :: rest => (.act a, s.setInputs rest)

/-- `PH` at a phase, with the two status bits that go with it (10_state R20: BUSY = 1 exactly when a
micro-operation is named, FAULT = 1 exactly in FAULTED). -/
def State.Of.atPhase (s : State.Of σ) (p : Phase) : State.Of σ :=
  (s.setStatus p.enabled s.done (p == .faulted) s.faultCode).setPh p

/-- Place a code so that the very next step runs it (log 14): a host transaction or an engine command as the next
turn, a phase in `PH` with a turn for the sequencer. A reserved phase code, which no state holds, places nothing. -/
def placeCode (c : Code) (s : State.Of σ) : State.Of σ :=
  match c with
  | .ht w => s.setInputs (.host w :: s.inputs)
  | .ec hdr blk => s.setInputs (.port hdr blk :: s.inputs)
  | .ph c =>
    match Phase.ofCode c with
    | some p => (s.atPhase p).setInputs (.sequencer :: s.inputs)
    | none => s

/-- One step, where an instruction runs by `run`: the next turn of the interleaving (00_scope section 5 "Step", R180). -/
def stepWith (run : Instr → State.Of σ → Result.Of σ) (s : State.Of σ) : Result.Of σ :=
  match nextTurn s with
  | (.act a, t) => platformAct a t
  | (.run c, t) =>
    match decode c with
    | .ok i => run i t
    | .error e => .refused (.undecodable e)

end Sys2Proof.Machine
end

