-- ==== Sys2Proof/Machine/Step.lean ====
section
/-! DEFINITION. One step: the next turn of the interleaving (spec/00_scope.md section 5 "Step",
spec/44_host_interface.md R180). -/

namespace Sys2Proof.Machine

def step (s : State) : Host.Outcome State Fault Refusal := stepWith exec s

/-- The state in which the very next step runs the table word `w` of `nbits` bits (log 14). -/
def State.withFetchWord (s : State) (nbits w : Nat) : State :=
  match tableCode nbits w with
  | some c => placeCode c s
  | none => s

end Sys2Proof.Machine
end

