-- ==== Sys2Proof/Machine/Sequencer.lean ====
section
/-! DEFINITION. The sequencer for every engine `E` (spec/42_hash_engine_port.md R110, R119): the micro-operation a
phase names, runs of it, and the command header each micro-operation puts on the engine port. With `E := engine` a
micro-operation is exec's meaning of its row. -/

namespace Sys2Proof.Machine

variable {σ : Type}

/-- One sequencer step at phase `p` with engine `E` (spec/43_orchestrator.md R140, R141). -/
def microOp (E : Engine σ) (p : Phase) (s : State.Of σ) : Except FaultCause (State.Of σ) :=
  match p with
  | .idle => rest s
  | .check => check s
  | .kbClear => kbClear s
  | .knCopy => knCopy s
  | .khInit => khInit E s
  | .khMulti => khMulti E s
  | .khLast => khLast E s
  | .khFinish => khFinish E s
  | .pdIpad => pdIpad s
  | .pdOpad => pdOpad s
  | .inInit => inInit E s
  | .inPadLast => inPadLast E s
  | .inPadMulti => inPadMulti E s
  | .inMsgMulti => inMsgMulti E s
  | .inMsgLast => inMsgLast E s
  | .inFinish => inFinish E s
  | .outInit => outInit E s
  | .outPadMulti => outPadMulti E s
  | .outDigLast => outDigLast E s
  | .outFinish => outFinish E s
  | .retire => retire s
  | .faulted => rest s

/-- `n` sequencer steps with engine `E`, stopping at a fault. -/
def seqRun (E : Engine σ) : Nat → State.Of σ → Except FaultCause (State.Of σ)
  | 0, s => .ok s
  | n + 1, s =>
    match microOp E s.ph s with
    | .ok t => seqRun E n t
    | .error c => .error c

/-- The `EC` header the micro-operation at phase `p` issues in state `s`, none where it issues no command
(spec/95_test_vectors.md ENC2; 40 R84 to R87, 43 R150 to R159). -/
def issuedHeader (p : Phase) (s : State.Of σ) : Option (BitVec 10) :=
  match p with
  | .khInit | .inInit | .outInit => some (ecHeader 0 0)
  | .khMulti | .inPadMulti | .inMsgMulti | .outPadMulti => some (ecHeader 1 128)
  | .khLast => s.off.map fun off => ecHeader 2 ((s.keyLen - off).setWidth 8)
  | .inMsgLast => s.off.map fun off => ecHeader 2 ((s.dataLen - off).setWidth 8)
  | .inPadLast => some (ecHeader 2 128)
  | .outDigLast => some (ecHeader 2 64)
  | .khFinish | .inFinish | .outFinish => some (ecHeader 3 0)
  | .idle | .check | .kbClear | .knCopy | .pdIpad | .pdOpad | .retire | .faulted => none

end Sys2Proof.Machine
end

