-- ==== Sys2Proof/Machine/EveryEngine.lean ====
section
/-! DEFINITION. The machine with the Hash Engine `E` as a parameter, over any state type (spec/00_scope.md R7,
spec/10_state.md R11, spec/42_hash_engine_port.md R110, R119, spec/92_eei_decisions.md D26). The host's interface, exec
and step, is this machine with `E := engine` (Laws/Ops.lean, `exec_eq_execFor` and `step_eq_stepFor`). -/

namespace Sys2Proof.Machine

variable {σ : Type}

/-- The meaning of every instruction with engine `E`. -/
def execFor (E : Engine σ) (i : Instr) (s : State.Of σ) : Result.Of σ :=
  match i with
  | .start _ => execStart s
  | .wrCtrlNop _ => execWrCtrlNop s
  | .wrStatus _ => execWrStatus s
  | .wrKeyLen data => execWrKeyLen data s
  | .wrDataLen data => execWrDataLen data s
  | .wrKeyCap _ => execWrKeyCap s
  | .wrDataCap _ => execWrDataCap s
  | .wrDstCap _ => execWrDstCap s
  | .wrRsvd7 _ => execWrRsvd7 s
  | .rdCtrl _ => execRdCtrl s
  | .rdStatus _ => execRdStatus s
  | .rdKeyLen _ => execRdKeyLen s
  | .rdDataLen _ => execRdDataLen s
  | .rdKeyCap _ => execRdKeyCap s
  | .rdDataCap _ => execRdDataCap s
  | .rdDstCap _ => execRdDstCap s
  | .rdRsvd7 _ => execRdRsvd7 s
  | .idle => commit s (rest s)
  | .check => commit s (check s)
  | .kbClear => commit s (kbClear s)
  | .knCopy => commit s (knCopy s)
  | .khInit => commit s (khInit E s)
  | .khMulti => commit s (khMulti E s)
  | .khLast => commit s (khLast E s)
  | .khFinish => commit s (khFinish E s)
  | .pdIpad => commit s (pdIpad s)
  | .pdOpad => commit s (pdOpad s)
  | .inInit => commit s (inInit E s)
  | .inPadLast => commit s (inPadLast E s)
  | .inPadMulti => commit s (inPadMulti E s)
  | .inMsgMulti => commit s (inMsgMulti E s)
  | .inMsgLast => commit s (inMsgLast E s)
  | .inFinish => commit s (inFinish E s)
  | .outInit => commit s (outInit E s)
  | .outPadMulti => commit s (outPadMulti E s)
  | .outDigLast => commit s (outDigLast E s)
  | .outFinish => commit s (outFinish E s)
  | .retire => commit s (retire s)
  | .faulted => commit s (rest s)
  | .init len => commit s (initCommand E len s)
  | .updateMulti len blk => commit s (updateMultiCommand E len blk s)
  | .updateLast len blk => commit s (updateLastCommand E len blk s)
  | .finish len => commit s (finishCommand E len s)

/-- One step of the machine with engine `E`. -/
def stepFor (E : Engine σ) (s : State.Of σ) : Result.Of σ := stepWith (execFor E) s

/-- The machine with engine `E`. -/
def coreFor (E : Engine σ) : Host.Core :=
  { State := State.Of σ, Fault := Fault, Refusal := Refusal, step := stepFor E, reset := State.resetOf σ }

end Sys2Proof.Machine
end

