-- ==== Sys2Proof/Machine/Contract.lean ====
section
/-! DEFINITION. What a COMPUTE computes, as functions of the engine and of the operands, and how many steps it takes
(spec/42_hash_engine_port.md R118, spec/40_key_normalizer.md R80, R91, spec/41_pad_deriver.md R100,
spec/43_orchestrator.md R162, R164, spec/70_reset_and_hazards.md R250). No step calls these; claims do. -/

namespace Sys2Proof.Machine

variable {σ : Type}

/-- `n` whole blocks by `update_multi` and the rest by `update_last` (R118, 43_orchestrator R142). -/
def absorb (E : Engine σ) : Nat → σ × U128 → List Byte → σ × U128
  | 0, hc, m => E.updateLast hc.1 hc.2 m
  | n + 1, hc, m => absorb E n (E.updateMulti hc.1 hc.2 (Bytes.ofList 128 (m.take 128))) (m.drop 128)

/-- `Hash(m)` (R118): `(|m| - 1) div 128` whole blocks (0 for the empty string), then the last chunk. -/
def hash (E : Engine σ) (m : List Byte) : Digest :=
  let r := absorb E ((m.length - 1) / 128) (E.init, 0) m
  E.finish r.1 r.2

/-- `normalize(key, key_len)` (R80). -/
def normalize (E : Engine σ) (key : List Byte) : Block :=
  if key.length ≤ 128 then Bytes.ofList 128 key else Bytes.ofList 128 (hash E key).toList

/-- `TAG` (00_scope R3, R164). -/
def hmacTag (E : Engine σ) (key msg : List Byte) : Digest :=
  let k0 := normalize E key
  hash E ((xorPad Config.opadByte k0).toList ++
    (hash E ((xorPad Config.ipadByte k0).toList ++ msg)).toList)

/-- The key of a launch, `KEY[0 .. KEY_LEN)`. -/
def keyBytes (s : State.Of σ) : List Byte := Memory.readBytes s.keyMem 0 s.keyLen.toNat

/-- The message of a launch, `DATA[0 .. DATA_LEN)`. -/
def messageBytes (s : State.Of σ) : List Byte := Memory.readBytes s.dataMem 0 s.dataLen.toNat

/-- The micro-operations of the key normalizer (R91). -/
def normalizerSteps (keyLen : Nat) : Nat := if keyLen ≤ 128 then 2 else 4 + (keyLen - 1) / 128

/-- The steps of a fault-free COMPUTE (R162). -/
def computeSteps (keyLen dataLen : Nat) : Nat :=
  1 + normalizerSteps keyLen + 2 + (if dataLen = 0 then 3 else 4 + (dataLen - 1) / 128) + 4 + 1

/-- The compression-function evaluations of a COMPUTE (R250). -/
def compressions (keyLen dataLen : Nat) : Nat :=
  (if keyLen ≤ 128 then 0 else (keyLen - 1) / 128 + 1) +
    (if dataLen = 0 then 1 else 2 + (dataLen - 1) / 128) + 2

/-- The contract of 20_memory R41: the three inequalities CHECK tests. -/
def contractHolds (s : State.Of σ) : Bool :=
  64 ≤ s.dstCap.toNat && s.keyLen.toNat ≤ s.keyCap.toNat && s.dataLen.toNat ≤ s.dataCap.toNat

/-! Pseudo-instructions (spec/30_encoding.md R72), as turns of the host. -/

/-- `START`: the word 0x800000001. -/
def pseudoStart : List Input := [.host 0x800000001]

/-- `POLL`: `RD STATUS` until the value read has bit 0 = 0 (Machine/Fetch.lean). -/
def pseudoPoll : List Input := [.poll]

/-- `COMPUTE kl, dl`. -/
def pseudoCompute (kl dl : Word32) : List Input :=
  [.host (htWord 1 2 kl), .host (htWord 1 3 dl)] ++ pseudoStart ++ pseudoPoll

end Sys2Proof.Machine
end

