-- ==== Sys2Proof/Safety.lean ====
section
/-! DEFINITION. What holds in every run of the rules, and what a micro-operation needs: the terms claims use. The
invariant is the table of spec/70_reset_and_hazards.md R238 with spec/10_state.md R14, R20, R26, R28, R32 and
spec/43_orchestrator.md R161, over every state in which no bench command is scheduled (log 2). -/

namespace Sys2Proof.Machine

variable {σ : Type}

/-! ### The invariant of a run -/

/-- STATUS and PH agree: BUSY = 1 exactly when a micro-operation is named, FAULT = 1 exactly in FAULTED, DONE = 1 only
in IDLE, and the code is that of a contract fault or 0 (R14, R20; 60_exceptions R200, R204). -/
structure StatusInv (s : State.Of σ) : Prop where
  busy_eq : s.busy = s.ph.enabled
  fault_iff : s.fault = true ↔ s.ph = .faulted
  done_idle : s.done = true → s.ph = .idle
  code_zero : s.ph ≠ .faulted → s.faultCode = 0
  code_contract : s.ph = .faulted → s.faultCode = 1 ∨ s.faultCode = 2 ∨ s.faultCode = 3

/-- Where `KEYBLK` holds a value (R32, R238): from the end of KB_CLEAR to the end of PD_OPAD. -/
def keyblkHeld : Phase → Bool
  | .knCopy | .khInit | .khMulti | .khLast | .khFinish | .pdIpad | .pdOpad => true
  | .idle | .check | .kbClear | .inInit | .inPadLast | .inPadMulti | .inMsgMulti | .inMsgLast | .inFinish
  | .outInit | .outPadMulti | .outDigLast | .outFinish | .retire | .faulted => false

/-- Where `OPAD` holds a value: from the end of PD_OPAD to RETIRE. -/
def opadHeld : Phase → Bool
  | .inInit | .inPadLast | .inPadMulti | .inMsgMulti | .inMsgLast | .inFinish
  | .outInit | .outPadMulti | .outDigLast | .outFinish | .retire => true
  | .idle | .check | .kbClear | .knCopy | .khInit | .khMulti | .khLast | .khFinish | .pdIpad | .pdOpad
  | .faulted => false

/-- Where `IPAD` holds a value: from the end of PD_IPAD to RETIRE. -/
def ipadHeld : Phase → Bool
  | .pdOpad | .inInit | .inPadLast | .inPadMulti | .inMsgMulti | .inMsgLast | .inFinish
  | .outInit | .outPadMulti | .outDigLast | .outFinish | .retire => true
  | .idle | .check | .kbClear | .knCopy | .khInit | .khMulti | .khLast | .khFinish | .pdIpad | .faulted => false

/-- Where `IDIG` holds a value: from the end of IN_FINISH to RETIRE. -/
def idigHeld : Phase → Bool
  | .outInit | .outPadMulti | .outDigLast | .outFinish | .retire => true
  | .idle | .check | .kbClear | .knCopy | .khInit | .khMulti | .khLast | .khFinish | .pdIpad | .pdOpad
  | .inInit | .inPadLast | .inPadMulti | .inMsgMulti | .inMsgLast | .inFinish | .faulted => false

/-- The value of `HS` (R26, R116): ABSORBING before each `*_MULTI` and `*_LAST`, FINAL before each `*_FINISH`. -/
def lifeAt : Phase → HashLife
  | .khMulti | .khLast | .inPadLast | .inPadMulti | .inMsgMulti | .inMsgLast | .outPadMulti | .outDigLast =>
    .absorbing
  | .khFinish | .inFinish | .outFinish => .final
  | .idle | .check | .kbClear | .knCopy | .khInit | .pdIpad | .pdOpad | .inInit | .outInit | .retire
  | .faulted => .empty

/-- `H` holds a value exactly in ABSORBING and FINAL (R25, R26). -/
def HashLife.holds : HashLife → Bool
  | .empty => false
  | .absorbing | .final => true

/-- Where `CTR` and `OFF` hold values: from the first `*_INIT` of the COMPUTE to RETIRE (R32); in the pad deriver and
before IN_INIT only if the key was hashed. -/
def countersHeld (p : Phase) (hashedKey : Bool) : Bool :=
  match p with
  | .khMulti | .khLast | .khFinish | .inPadLast | .inPadMulti | .inMsgMulti | .inMsgLast | .inFinish
  | .outInit | .outPadMulti | .outDigLast | .outFinish | .retire => true
  | .pdIpad | .pdOpad | .inInit => hashedKey
  | .idle | .check | .kbClear | .knCopy | .khInit | .faulted => false

/-- Which registers hold a value (R238). -/
structure HeldInv (s : State.Of σ) : Prop where
  keyblk : s.keyblk.isSome = keyblkHeld s.ph
  ipad : s.ipad.isSome = ipadHeld s.ph
  opad : s.opad.isSome = opadHeld s.ph
  idig : s.idig.isSome = idigHeld s.ph
  life : s.hs = lifeAt s.ph
  hash : s.h.isSome = (lifeAt s.ph).holds
  ctr : s.ctr.isSome = countersHeld s.ph (!keyIsShort s.keyLen)
  off : s.off.isSome = countersHeld s.ph (!keyIsShort s.keyLen)

/-- The values of `CTR` and `OFF` (43_orchestrator R161, 10_state R28) and the conditions under which a phase is
entered (40 R83 to R87, 43 R151 to R154). -/
def progressAt (p : Phase) (kl dl off ctr : Nat) : Prop :=
  match p with
  | .knCopy => kl ≤ 128
  | .khInit => 128 < kl
  | .khMulti => ctr = off ∧ off % 128 = 0 ∧ off + 128 < kl
  | .khLast => ctr = off ∧ off % 128 = 0 ∧ off < kl ∧ kl ≤ off + 128 ∧ 128 < kl
  | .khFinish => ctr = kl ∧ off = kl ∧ 128 < kl
  | .inPadLast => ctr = 0 ∧ off = 0 ∧ dl = 0
  | .inPadMulti => ctr = 0 ∧ off = 0 ∧ 0 < dl
  | .inMsgMulti => ctr = 128 + off ∧ off % 128 = 0 ∧ off + 128 < dl
  | .inMsgLast => ctr = 128 + off ∧ off % 128 = 0 ∧ off < dl ∧ dl ≤ off + 128
  | .inFinish => ctr = 128 + dl ∧ off = dl
  | .outInit => ctr = 128 + dl ∧ off = dl
  | .outPadMulti => ctr = 0 ∧ off = 0
  | .outDigLast => ctr = 128 ∧ off = 0
  | .outFinish => ctr = 192 ∧ off = 0
  | .retire => ctr = 192 ∧ off = 0
  | .pdIpad | .pdOpad | .inInit => 128 < kl → ctr = kl ∧ off = kl
  | .idle | .check | .kbClear | .faulted => True

/-- `progressAt` on a state; the numbers of registers that hold no value are not looked at. -/
def ProgressInv (s : State.Of σ) : Prop :=
  progressAt s.ph s.keyLen.toNat s.dataLen.toNat ((s.off.map (·.toNat)).getD 0) ((s.ctr.map (·.toNat)).getD 0)

/-- CHECK has passed (44_host_interface R194). -/
def pastCheck : Phase → Bool
  | .idle | .check | .faulted => false
  | .kbClear | .knCopy | .khInit | .khMulti | .khLast | .khFinish | .pdIpad | .pdOpad
  | .inInit | .inPadLast | .inPadMulti | .inMsgMulti | .inMsgLast | .inFinish
  | .outInit | .outPadMulti | .outDigLast | .outFinish | .retire => true

/-- The spaces are in canonical form and within their capacities (20_memory R40, R41). -/
structure MemoryInv (s : State.Of σ) : Prop where
  key_wf : Memory.wf s.keyMem
  data_wf : Memory.wf s.dataMem
  dst_wf : Memory.wf s.dstMem
  key_below : Memory.below s.keyMem s.keyCap.toNat
  data_below : Memory.below s.dataMem s.dataCap.toNat
  dst_below : Memory.below s.dstMem s.dstCap.toNat

/-- No engine command of a bench is scheduled: only the sequencer issues commands (42 R116, R163). -/
def noBench (l : List Input) : Bool :=
  l.all fun x => match x with
    | .port _ _ => false
    | .sequencer | .host _ | .poll | .platform _ => true

/-- The invariant of every run of the rules. -/
structure Inv (s : State.Of σ) : Prop where
  status : StatusInv s
  held : HeldInv s
  progress : ProgressInv s
  checked : pastCheck s.ph = true → contractHolds s = true
  memory : MemoryInv s
  schedule : noBench s.inputs = true

/-! ### What a micro-operation needs -/

/-- A registered `H` and `CTR` in the life-cycle state a command needs (42 R116). -/
def portReady (life : HashLife) (s : State.Of σ) : Bool := s.hs == life && s.h.isSome && s.ctr.isSome

/-- An in-bounds read of `LEN - OFF` bytes, at most 128 (20_memory R43). -/
def chunkReady (len : Word32) (cap : Word32) (off : Word32) : Bool :=
  (len - off).toNat ≤ 128 && off.toNat + (len - off).toNat ≤ cap.toNat

/-- None of the assertions of 60_exceptions R204 fails at phase `p` in state `s`. CHECK asserts nothing. -/
def microOpReady (p : Phase) (s : State.Of σ) : Bool :=
  match p with
  | .idle | .check | .kbClear | .khInit | .inInit | .outInit | .retire | .faulted => true
  | .knCopy => s.keyblk.isSome && s.keyLen.toNat ≤ 128 && s.keyLen.toNat ≤ s.keyCap.toNat
  | .khMulti => portReady .absorbing s && s.off.any fun o => o.toNat + 128 ≤ s.keyCap.toNat
  | .khLast => portReady .absorbing s && s.off.any fun o => chunkReady s.keyLen s.keyCap o
  | .khFinish => portReady .final s && s.keyblk.isSome
  | .pdIpad | .pdOpad => s.keyblk.isSome
  | .inPadLast => portReady .absorbing s && s.ipad.isSome
  | .inPadMulti => portReady .absorbing s && s.ipad.isSome && s.off.isSome
  | .inMsgMulti => portReady .absorbing s && s.off.any fun o => o.toNat + 128 ≤ s.dataCap.toNat
  | .inMsgLast => portReady .absorbing s && s.off.any fun o => chunkReady s.dataLen s.dataCap o
  | .inFinish => portReady .final s
  | .outPadMulti => portReady .absorbing s && s.opad.isSome
  | .outDigLast => portReady .absorbing s && s.idig.isSome
  | .outFinish => portReady .final s && 64 ≤ s.dstCap.toNat

/-! ### Control flow -/

/-- The successor table (43_orchestrator R141) for the phases a sequencer step leaves without a fault; the conditions
are evaluated on the state after the micro-operation's own updates. -/
def successor (p : Phase) (t : State.Of σ) : Phase :=
  let keyLeft := t.keyLen.toNat - ((t.off.map (·.toNat)).getD 0)
  let dataLeft := t.dataLen.toNat - ((t.off.map (·.toNat)).getD 0)
  match p with
  | .idle => .idle
  | .check => .kbClear
  | .kbClear => if t.keyLen.toNat ≤ 128 then .knCopy else .khInit
  | .knCopy => .pdIpad
  | .khInit => .khMulti
  | .khMulti => if 128 < keyLeft then .khMulti else .khLast
  | .khLast => .khFinish
  | .khFinish => .pdIpad
  | .pdIpad => .pdOpad
  | .pdOpad => .inInit
  | .inInit => if t.dataLen.toNat = 0 then .inPadLast else .inPadMulti
  | .inPadLast => .inFinish
  | .inPadMulti => if 128 < dataLeft then .inMsgMulti else .inMsgLast
  | .inMsgMulti => if 128 < dataLeft then .inMsgMulti else .inMsgLast
  | .inMsgLast => .inFinish
  | .inFinish => .outInit
  | .outInit => .outPadMulti
  | .outPadMulti => .outDigLast
  | .outDigLast => .outFinish
  | .outFinish => .retire
  | .retire => .idle
  | .faulted => .faulted

/-! ### Observation -/

/-- What the host can see of a state: the registers it can read and what the latest read gave (10_state R10). -/
structure HostView where
  status : Word32
  keyLen : Word32
  dataLen : Word32
  keyCap : Word32
  dataCap : Word32
  dstCap : Word32
  rdData : Option Word32
  deriving DecidableEq, Repr

def hostView (s : State.Of σ) : HostView :=
  ⟨statusWord s, s.keyLen, s.dataLen, s.keyCap, s.dataCap, s.dstCap, s.rdData⟩

/-- What steers the sequencer: everything but the bytes of registers, of the hash state and of the spaces, and the
counter's value (70_reset R250, "never on the bytes of the key or of the message"). -/
structure Skeleton where
  status : Word32
  ph : Phase
  keyLen : Word32
  dataLen : Word32
  keyCap : Word32
  dataCap : Word32
  dstCap : Word32
  off : Option Word32
  hs : HashLife
  held : List Bool
  deriving DecidableEq, Repr

def skeleton (s : State.Of σ) : Skeleton :=
  ⟨statusWord s, s.ph, s.keyLen, s.dataLen, s.keyCap, s.dataCap, s.dstCap, s.off, s.hs,
    [s.keyblk.isSome, s.ipad.isSome, s.opad.isSome, s.idig.isSome, s.h.isSome, s.ctr.isSome]⟩

/-! ### A safe run -/

/-- A run from `s` meets neither a fault nor a refusal of the model, whatever its length. -/
def Safe (s : State) : Prop :=
  ∀ n : Nat, ∃ t : State, Host.Core.run Sys2Proof.core n s = .next t

end Sys2Proof.Machine
end

