-- ==== Sys2Proof/Certificates/Slice0/Obligations.lean ====
section
/-! DEFINITION. The statements for the provers. Each says which rule of spec/ it formalises, or which it rests on and
what in it is the model's own choice (the log entry is named). `engine` is the engine of exec and step (log 4); where a
statement says every engine, it is every engine over every state type. -/

open Sys2Proof Sys2Proof.Machine

/-! ### Encodings -/

/-- The encoder and the decoder agree on every instruction, whatever its operands (30_encoding R61 to R65). -/
def Obligations.DecodeUndoesEncode : Prop :=
  ∀ i : Instr, decode (encode i) = .ok i

/-- The same through the bytes of a code, with any bytes after it. The layout in bytes is the model's (log 13). -/
def Obligations.DecodeBytesUndoesEncodeBytes : Prop :=
  ∀ (i : Instr) (rest : List Byte),
    decodeBytes (encode i).format (encodeBytes i ++ rest) = .ok (i, rest)

/-- The opcode map of R62, row by row, for every `DATA` (R61: `W` at 35, `REG` at 34:32, `DATA` at 31:0); each word
matches exactly one row, so a decoder never answers invalid. -/
def Obligations.HostTransactionMap : Prop :=
  (∀ d : BitVec 31,
    decode (.ht (0x8#4 ++ (d ++ 1#1))) = .ok (.start d) ∧
    decode (.ht (0x8#4 ++ (d ++ 0#1))) = .ok (.wrCtrlNop d)) ∧
  (∀ d : BitVec 32,
    decode (.ht (0x9#4 ++ d)) = .ok (.wrStatus d) ∧
    decode (.ht (0xA#4 ++ d)) = .ok (.wrKeyLen d) ∧
    decode (.ht (0xB#4 ++ d)) = .ok (.wrDataLen d) ∧
    decode (.ht (0xC#4 ++ d)) = .ok (.wrKeyCap d) ∧
    decode (.ht (0xD#4 ++ d)) = .ok (.wrDataCap d) ∧
    decode (.ht (0xE#4 ++ d)) = .ok (.wrDstCap d) ∧
    decode (.ht (0xF#4 ++ d)) = .ok (.wrRsvd7 d) ∧
    decode (.ht (0x0#4 ++ d)) = .ok (.rdCtrl d) ∧
    decode (.ht (0x1#4 ++ d)) = .ok (.rdStatus d) ∧
    decode (.ht (0x2#4 ++ d)) = .ok (.rdKeyLen d) ∧
    decode (.ht (0x3#4 ++ d)) = .ok (.rdDataLen d) ∧
    decode (.ht (0x4#4 ++ d)) = .ok (.rdKeyCap d) ∧
    decode (.ht (0x5#4 ++ d)) = .ok (.rdDataCap d) ∧
    decode (.ht (0x6#4 ++ d)) = .ok (.rdDstCap d) ∧
    decode (.ht (0x7#4 ++ d)) = .ok (.rdRsvd7 d)) ∧
  (∀ w : BitVec 36, ∃ i, decode (.ht w) = .ok i ∧ ∀ j, encode j = .ht w ↔ j = i)

/-- The phase codes of R63, that exactly the codes 0x15 to 0x1E are reserved, and that PH never decreases except in
RETIRE's return to IDLE. -/
def Obligations.PhaseCodeTable : Prop :=
  allPhases.map Phase.code =
    [0x00, 0x01, 0x02, 0x03, 0x04, 0x05, 0x06, 0x07, 0x08, 0x09, 0x0A, 0x0B, 0x0C, 0x0D, 0x0E, 0x0F, 0x10, 0x11,
     0x12, 0x13, 0x14, 0x1F] ∧
  (∀ p : Phase, decode (.ph p.code) = .ok p.instr) ∧
  (∀ c : BitVec 5, decode (.ph c) = .error .reservedPhase ↔ 0x15 ≤ c.toNat ∧ c.toNat ≤ 0x1E) ∧
  ∀ s t : State, s.ph ≠ .retire → microOp engine s.ph s = .ok t → s.ph.code.toNat ≤ t.ph.code.toNat

/-- The engine command map of R65 for every `LEN` and bus (R64: `OP` at 9:8, `LEN` at 7:0). -/
def Obligations.EngineCommandMap : Prop :=
  ∀ (len : Byte) (blk : BitVec 1024),
    decode (.ec (0b00#2 ++ len) blk) = .ok (.init len) ∧
    decode (.ec (0b01#2 ++ len) blk) = .ok (.updateMulti len blk) ∧
    decode (.ec (0b10#2 ++ len) blk) = .ok (.updateLast len blk) ∧
    decode (.ec (0b11#2 ++ len) blk) = .ok (.finish len)

/-- Words of 95_test_vectors ENC1, ENC2 and of the phase table, numbered as the opcode table numbers them. -/
def Obligations.TableWordsDecode : Prop :=
  decodeTableWord 40 0x800000001 = some (.start 0) ∧
  decodeTableWord 40 0x8FFFFFFFE = some (.wrCtrlNop 0x7FFFFFFF) ∧
  decodeTableWord 40 0xA00000081 = some (.wrKeyLen 129) ∧
  decodeTableWord 40 0x1DEADBEEF = some (.rdStatus 0xDEADBEEF) ∧
  decodeTableWord 8 0x14 = some .retire ∧
  decodeTableWord 8 0x15 = none ∧
  decodeTableWord 16 0x22B = some (.updateLast 43 0) ∧
  decodeTableWord 16 0x300 = some (.finish 0)

/-! ### Steps -/

/-- A step runs the decoded instruction: where the next turn runs a code that decodes to `i`, the step is exec of `i`
on the state with that turn taken off the schedule (log 1). The same holds for the machine of every engine, and exec is
the meaning of every instruction with the engine at `engine` (R7, R11, R119). -/
def Obligations.StepRunsTheDecodedInstruction : Prop :=
  (∀ (s t : State) (c : Code) (i : Instr),
    nextTurn s = (.run c, t) → decode c = .ok i → step s = exec i t) ∧
  (∀ (σ : Type) (E : Engine σ) (s t : State.Of σ) (c : Code) (i : Instr),
    nextTurn s = (.run c, t) → decode c = .ok i → stepFor E s = execFor E i t) ∧
  ∀ (i : Instr) (s : State), exec i s = execFor engine i s

/-- What each turn runs (44_host_interface R180): the sequencer's is the micro-operation `PH` names, a host's is its
transaction. A POLL (30_encoding R72) reads STATUS, and again after a turn of the sequencer while BUSY = 1. The schedule
`inputs` is the model's, and so are the sequencer's single turn between two reads of a POLL (log 1) and the bench's turn
(log 2). -/
def Obligations.EachTurnRunsItsInstruction : Prop :=
  ∀ (s : State) (rest : List Input),
    (s.inputs = [] → step s = exec s.ph.instr s) ∧
    (s.inputs = .sequencer :: rest → step s = exec s.ph.instr { s with inputs := rest }) ∧
    (∀ w, s.inputs = .host w :: rest → step s = exec (decodeHt w) { s with inputs := rest }) ∧
    (s.inputs = .poll :: rest →
      step s = exec (.rdStatus 0) { s with
        inputs := if s.busy then .sequencer :: .poll :: rest else rest }) ∧
    (∀ hdr blk, s.inputs = .port hdr blk :: rest →
      step s = exec (decodeEc hdr blk) { s with inputs := rest }) ∧
    ∀ a, s.inputs = .platform a :: rest → step s = platformAct a { s with inputs := rest }

/-- A table word that decodes runs as the very next step where withFetchWord places it (the model's, log 14): a host
transaction or an engine command on the state as it is, a phase on the state with `PH` at that phase. -/
def Obligations.PlacedWordRunsNext : Prop :=
  ∀ (s : State) (nbits w : Nat) (c : Code) (i : Instr), tableCode nbits w = some c → decode c = .ok i →
    decodeTableWord nbits w = some i ∧
    (c.format = .ht ∨ c.format = .ec → step (s.withFetchWord nbits w) = exec i s) ∧
    (c.format = .ph → ∃ p : Phase, p.instr = i ∧
      step (s.withFetchWord nbits w) =
        exec i { s with ph := p, busy := p.enabled, fault := (p == .faulted) })

/-- Reset (R230), in every state: one step to the reset values; the spaces and the capacities are not touched. The
turn on which it comes is the model's (log 1), and so is that the model's own fields outlive it (log 1, 2, 3). -/
def Obligations.ResetFromEveryState : Prop :=
  ∀ (s : State) (rest : List Input), s.inputs = .platform .reset :: rest →
    step s = .next { s with
      inputs := rest, ph := .idle, busy := false, done := false, fault := false, faultCode := 0,
      keyLen := 0, dataLen := 0, hs := .empty, keyblk := none, ipad := none, opad := none, idig := none,
      h := none, ctr := none, off := none }

/-- The platform and the host reach the spaces while BUSY = 0 only (20_memory R42). The refusal of a host that breaks
its duty and the fault at a byte that does not exist are the model's (log 7, 18). -/
def Obligations.SpacesAreReachedOnlyWhileIdle : Prop :=
  ∀ (s : State) (sp : Space) (cap off : Word32) (bytes : List Byte) (b : Byte),
    (s.busy = true →
      platformAct (.attach sp cap bytes) s = .refused .hostDutyBroken ∧
      platformAct (.hostWrite sp off b) s = .refused .hostDutyBroken) ∧
    (s.busy = false →
      (∃ t, platformAct (.attach sp cap bytes) s = .next t ∧ t.cap sp = cap ∧ Memory.wf (t.mem sp) ∧
        (bytes.length ≤ cap.toNat → Memory.readBytes (t.mem sp) 0 bytes.length = bytes) ∧
        ∀ sp', sp' ≠ sp → t.cap sp' = s.cap sp' ∧ t.mem sp' = s.mem sp') ∧
      ((s.cap sp).toNat ≤ off.toNat → platformAct (.hostWrite sp off b) s = .fault .noSuchByte) ∧
      (off.toNat < (s.cap sp).toNat → Memory.wf (s.mem sp) →
        ∃ t, platformAct (.hostWrite sp off b) s = .next t ∧
          Memory.read (t.mem sp) off.toNat = b ∧
          (∀ a, a ≠ off.toNat → Memory.read (t.mem sp) a = Memory.read (s.mem sp) a) ∧
          (∀ sp', t.cap sp' = s.cap sp') ∧ ∀ sp', sp' ≠ sp → t.mem sp' = s.mem sp'))

/-! ### Host transactions -/

/-- START (R181): accepted when BUSY = 0 and FAULT = 0, otherwise no state changes. -/
def Obligations.StartIsAcceptedOrIgnored : Prop :=
  ∀ (d : BitVec 31) (s : State),
    (s.busy = false ∧ s.fault = false →
      exec (.start d) s = .next { s with busy := true, done := false, ph := .check }) ∧
    (s.busy = true ∨ s.fault = true → exec (.start d) s = .next s)

/-- WR_KEY_LEN and WR_DATA_LEN (R183, R184): performed when BUSY = 0, dropped otherwise. -/
def Obligations.LengthWritesAreDroppedWhileBusy : Prop :=
  ∀ (d : Word32) (s : State),
    (s.busy = false →
      exec (.wrKeyLen d) s = .next { s with keyLen := d } ∧
      exec (.wrDataLen d) s = .next { s with dataLen := d }) ∧
    (s.busy = true → exec (.wrKeyLen d) s = .next s ∧ exec (.wrDataLen d) s = .next s)

/-- WR_CTRL_NOP, WR_STATUS, WR_KEY_CAP, WR_DATA_CAP, WR_DST_CAP (R182, R185 to R188): no effect, whatever the data. -/
def Obligations.IgnoredWritesChangeNothing : Prop :=
  ∀ (e : BitVec 31) (d : Word32) (s : State),
    exec (.wrCtrlNop e) s = .next s ∧ exec (.wrStatus d) s = .next s ∧ exec (.wrKeyCap d) s = .next s ∧
    exec (.wrDataCap d) s = .next s ∧ exec (.wrDstCap d) s = .next s

/-- The reads (R189 to R191, R193, R196 to R198) return the register and change none. The returned value stands in
`rdData`, the model's own field (log 3). -/
def Obligations.ReadsReturnTheRegister : Prop :=
  ∀ (d : Word32) (s : State),
    exec (.rdCtrl d) s = .next { s with rdData := some 0 } ∧
    exec (.rdStatus d) s = .next { s with
      rdData := some (BitVec.ofNat 32
        (s.busy.toNat + 2 * s.done.toNat + 4 * s.fault.toNat + 16 * s.faultCode.toNat)) } ∧
    exec (.rdKeyLen d) s = .next { s with rdData := some s.keyLen } ∧
    exec (.rdDataLen d) s = .next { s with rdData := some s.dataLen } ∧
    exec (.rdKeyCap d) s = .next { s with rdData := some s.keyCap } ∧
    exec (.rdDataCap d) s = .next { s with rdData := some s.dataCap } ∧
    exec (.rdDstCap d) s = .next { s with rdData := some s.dstCap }

/-- Register 7 (R192): reads 0, ignores writes, in every state. The returned value stands in `rdData`, the model's own
field (log 3). -/
def Obligations.RegisterSevenIsReserved : Prop :=
  ∀ (d : Word32) (s : State),
    exec (.rdRsvd7 d) s = .next { s with rdData := some 0 } ∧ exec (.wrRsvd7 d) s = .next s

/-- The values a read of STATUS returns in a run (R190, corner cases): idle, busy, done, or one of the three contract
faults; ENGINE_ASSERT's is unreachable. -/
def Obligations.StatusTakesSixValues : Prop :=
  ∀ s : State, Inv s → statusWord s ∈ [0x00, 0x01, 0x02, 0x14, 0x24, 0x34]

/-- The level outputs `busy`, `done`, `fault` are copies of STATUS bits 0, 1, 2 at every moment (R210). -/
def Obligations.LevelOutputsCopyTheStatusBits : Prop :=
  ∀ s : State, s.busyOut = s.busy ∧ s.doneOut = s.done ∧ s.faultOut = s.fault

/-- While BUSY = 1 a host transaction changes nothing but what a read returns (R180 to R193, R196 to R198). -/
def Obligations.HostIsPowerlessWhileBusy : Prop :=
  ∀ (w : BitVec 36) (s : State), s.busy = true →
    ∃ r, exec (decodeHt w) s = .next { s with rdData := r }

/-- What the host sees after any of its transactions depends on what it saw before only, and no transaction reaches a
data register or a space (10_state section 4, 60_exceptions R215). What it sees includes the value of the latest read,
`rdData`, the model's own field (log 3); `PH`, which START writes, and the model's other fields are not spoken of. -/
def Obligations.HostSeesOnlyItsRegisters : Prop :=
  ∀ (w : BitVec 36) (s s' : State), hostView s = hostView s' →
    ∃ t t', exec (decodeHt w) s = .next t ∧ exec (decodeHt w) s' = .next t' ∧ hostView t = hostView t' ∧
      (t.keyblk, t.ipad, t.opad, t.idig, t.h, t.hs, t.ctr, t.off) =
        (s.keyblk, s.ipad, s.opad, s.idig, s.h, s.hs, s.ctr, s.off) ∧
      (t.keyMem, t.dataMem, t.dstMem) = (s.keyMem, s.dataMem, s.dstMem)

/-! ### CHECK, faults, RETIRE -/

/-- CHECK (R194): the three inequalities in order, the lowest code first (60_exceptions R206); on a fault the four
writes of R205 and no other. -/
def Obligations.CheckTestsTheContract : Prop :=
  ∀ s : State,
    (s.dstCap.toNat < 64 → exec .check s =
      .next { s with faultCode := 1, fault := true, busy := false, ph := .faulted }) ∧
    (64 ≤ s.dstCap.toNat → s.keyCap.toNat < s.keyLen.toNat → exec .check s =
      .next { s with faultCode := 2, fault := true, busy := false, ph := .faulted }) ∧
    (64 ≤ s.dstCap.toNat → s.keyLen.toNat ≤ s.keyCap.toNat → s.dataCap.toNat < s.dataLen.toNat → exec .check s =
      .next { s with faultCode := 3, fault := true, busy := false, ph := .faulted }) ∧
    (64 ≤ s.dstCap.toNat → s.keyLen.toNat ≤ s.keyCap.toNat → s.dataLen.toNat ≤ s.dataCap.toNat →
      exec .check s = .next { s with ph := .kbClear })

/-- Fault entry (R205): an instruction that leads into FAULTED writes FAULT_CODE, FAULT, BUSY and PH and nothing else:
its other writes do not happen. -/
def Obligations.FaultsWriteFourFieldsOnly : Prop :=
  ∀ (i : Instr) (s t : State), s.ph ≠ .faulted → exec i s = .next t → t.ph = .faulted →
    ∃ c : FaultCause, t = { s with faultCode := c.code, fault := true, busy := false, ph := .faulted }

/-- No step but a reset leaves a fault (R207): FAULT, FAULT_CODE and FAULTED are sticky and a fault is not entered
twice (R206). A bench's engine command is left out (log 2). -/
def Obligations.FaultsAreSticky : Prop :=
  ∀ s t : State, s.ph = .faulted → s.fault = true → noBench s.inputs = true →
    s.inputs.head? ≠ some (.platform .reset) → step s = .next t →
    t.ph = .faulted ∧ t.fault = true ∧ t.faultCode = s.faultCode ∧ t.busy = s.busy ∧ t.done = s.done

/-- RETIRE (R195). -/
def Obligations.RetireEndsTheCompute : Prop :=
  ∀ s : State, exec .retire s = .next { s with
    ipad := none, opad := none, idig := none, ctr := none, off := none,
    busy := false, done := true, ph := .idle }

/-- After RETIRE the whole state is that after a reset but for DONE = 1 and the length registers (R195 corner cases;
10_state R12, 70_reset R239): nothing of the COMPUTE is left. -/
def Obligations.RetireLeavesTheResetState : Prop :=
  ∀ s : State, Inv s → s.ph = .retire →
    exec .retire s = .next { takeReset s with done := true, keyLen := s.keyLen, dataLen := s.dataLen }

/-- The resting phases change nothing (R180: no sequencer step is enabled). That a turn is taken there at all is the
model's choice (log 9). -/
def Obligations.RestingPhasesChangeNothing : Prop :=
  ∀ s : State, exec .idle s = .next s ∧ exec .faulted s = .next s

/-! ### Key normalizer -/

/-- KB_CLEAR and KN_COPY (R82, R83). -/
def Obligations.ShortKeysAreCopied : Prop :=
  (∀ s : State, exec .kbClear s = .next { s with
    keyblk := some (Bytes.zeros 128), ph := if s.keyLen.toNat ≤ 128 then .knCopy else .khInit }) ∧
  ∀ (s : State) (kb : Block), s.keyblk = some kb → s.keyLen.toNat ≤ 128 → s.keyLen.toNat ≤ s.keyCap.toNat →
    exec .knCopy s = .next { s with
      keyblk := some (Bytes.ofList 128
        (Memory.readBytes s.keyMem 0 s.keyLen.toNat ++ kb.toList.drop s.keyLen.toNat)),
      ph := .pdIpad }

/-- KH_INIT, IN_INIT, OUT_INIT (R84, R150, R156): a fresh hash state, counter 0, offset 0, and the branch on the
message length. -/
def Obligations.InitPhasesMakeAFreshState : Prop :=
  ∀ s : State,
    exec .khInit s = .next { s with
      h := some engine.init, hs := .absorbing, ctr := some 0, off := some 0, ph := .khMulti } ∧
    exec .inInit s = .next { s with
      h := some engine.init, hs := .absorbing, ctr := some 0, off := some 0,
      ph := if s.dataLen = 0 then .inPadLast else .inPadMulti } ∧
    exec .outInit s = .next { s with
      h := some engine.init, hs := .absorbing, ctr := some 0, off := some 0, ph := .outPadMulti }

/-- KH_MULTI (R85): one whole block of the key that is not the last, entered with KEY_LEN - OFF > 128. -/
def Obligations.KhMultiAbsorbsOneBlock : Prop :=
  ∀ (s : State) (off : Word32) (h : HashState) (c : U128),
    s.off = some off → s.h = some h → s.ctr = some c → s.hs = .absorbing →
    off.toNat + 128 < s.keyLen.toNat → off.toNat + 128 ≤ s.keyCap.toNat →
    exec .khMulti s =
      (let r := engine.updateMulti h c (Bytes.ofList 128 (Memory.readBytes s.keyMem off.toNat 128))
       .next { s with
        h := some r.1, ctr := some r.2, off := some (off + 128),
        ph := if 128 < s.keyLen.toNat - (off.toNat + 128) then .khMulti else .khLast })

/-- KH_LAST (R86): the last chunk of the key, entered with 1 <= KEY_LEN - OFF <= 128; OFF becomes KEY_LEN. -/
def Obligations.KhLastAbsorbsTheLastChunk : Prop :=
  ∀ (s : State) (off : Word32) (h : HashState) (c : U128),
    s.off = some off → s.h = some h → s.ctr = some c → s.hs = .absorbing →
    off.toNat < s.keyLen.toNat → s.keyLen.toNat ≤ off.toNat + 128 → s.keyLen.toNat ≤ s.keyCap.toNat →
    exec .khLast s =
      (let r := engine.updateLast h c (Memory.readBytes s.keyMem off.toNat (s.keyLen.toNat - off.toNat))
       .next { s with h := some r.1, hs := .final, ctr := some r.2, off := some s.keyLen, ph := .khFinish })

/-- KH_FINISH and IN_FINISH (R87, R155): the digest goes to KEYBLK[0..64) or IDIG, `H` is consumed. -/
def Obligations.FinishPhasesExtractTheDigest : Prop :=
  ∀ (s : State) (h : HashState) (c : U128), s.h = some h → s.ctr = some c → s.hs = .final →
    (∀ kb : Block, s.keyblk = some kb → exec .khFinish s = .next { s with
      keyblk := some (Bytes.ofList 128 ((engine.finish h c).toList ++ kb.toList.drop 64)),
      h := none, hs := .empty, ph := .pdIpad }) ∧
    exec .inFinish s = .next { s with
      idig := some (engine.finish h c), h := none, hs := .empty, ph := .outInit }

/-! ### Pad deriver -/

/-- PD_IPAD and PD_OPAD (R101, R102): every byte xor-ed with the pad constant; PD_OPAD discards the key block. -/
def Obligations.PadPhasesXorTheKeyBlock : Prop :=
  ∀ (s : State) (kb : Block), s.keyblk = some kb →
    exec .pdIpad s = .next { s with
      ipad := some (Bytes.ofList 128 (kb.toList.map (0x36 ^^^ ·))), ph := .pdOpad } ∧
    exec .pdOpad s = .next { s with
      opad := some (Bytes.ofList 128 (kb.toList.map (0x5c ^^^ ·))), keyblk := none, ph := .inInit }

/-- The property of R104: both pads give back their constant, byte by byte, and differ by 0x6A everywhere. -/
def Obligations.PadsDifferFromTheKeyBlockByTheirConstants : Prop :=
  ∀ (s : State) (kb : Block), s.keyblk = some kb →
    ∃ (t u : State) (ip op : Block), exec .pdIpad s = .next t ∧ exec .pdOpad t = .next u ∧
      u.ipad = some ip ∧ u.opad = some op ∧
      ∀ i, i < 128 → ip.get i ^^^ kb.get i = 0x36 ∧ op.get i ^^^ kb.get i = 0x5c ∧ ip.get i ^^^ op.get i = 0x6A

/-! ### Orchestrator -/

/-- IN_MSG_MULTI (R153): one whole message block that is not the last, entered with DATA_LEN - OFF > 128. -/
def Obligations.InMsgMultiAbsorbsOneBlock : Prop :=
  ∀ (s : State) (off : Word32) (h : HashState) (c : U128),
    s.off = some off → s.h = some h → s.ctr = some c → s.hs = .absorbing →
    off.toNat + 128 < s.dataLen.toNat → off.toNat + 128 ≤ s.dataCap.toNat →
    exec .inMsgMulti s =
      (let r := engine.updateMulti h c (Bytes.ofList 128 (Memory.readBytes s.dataMem off.toNat 128))
       .next { s with
        h := some r.1, ctr := some r.2, off := some (off + 128),
        ph := if 128 < s.dataLen.toNat - (off.toNat + 128) then .inMsgMulti else .inMsgLast })

/-- IN_MSG_LAST (R154): the last chunk of the message, entered with 1 <= DATA_LEN - OFF <= 128. -/
def Obligations.InMsgLastAbsorbsTheLastChunk : Prop :=
  ∀ (s : State) (off : Word32) (h : HashState) (c : U128),
    s.off = some off → s.h = some h → s.ctr = some c → s.hs = .absorbing →
    off.toNat < s.dataLen.toNat → s.dataLen.toNat ≤ off.toNat + 128 → s.dataLen.toNat ≤ s.dataCap.toNat →
    exec .inMsgLast s =
      (let r := engine.updateLast h c (Memory.readBytes s.dataMem off.toNat (s.dataLen.toNat - off.toNat))
       .next { s with h := some r.1, hs := .final, ctr := some r.2, off := some s.dataLen, ph := .inFinish })

/-- IN_PAD_LAST, IN_PAD_MULTI, OUT_PAD_MULTI, OUT_DIG_LAST (R151, R152, R157, R158): the pads as first whole blocks,
the inner pad as the whole stream of an empty message, the inner digest as the final chunk. -/
def Obligations.RegisterChunksAreAbsorbed : Prop :=
  ∀ (s : State) (h : HashState) (c : U128), s.h = some h → s.ctr = some c → s.hs = .absorbing →
    (∀ pad : Block, s.ipad = some pad → exec .inPadLast s =
      (let r := engine.updateLast h c pad.toList
       .next { s with h := some r.1, hs := .final, ctr := some r.2, ph := .inFinish })) ∧
    (∀ (pad : Block) (off : Word32), s.ipad = some pad → s.off = some off → off.toNat ≤ s.dataLen.toNat →
      exec .inPadMulti s =
      (let r := engine.updateMulti h c pad
       .next { s with
        h := some r.1, ctr := some r.2,
        ph := if 128 < s.dataLen.toNat - off.toNat then .inMsgMulti else .inMsgLast })) ∧
    (∀ pad : Block, s.opad = some pad → exec .outPadMulti s =
      (let r := engine.updateMulti h c pad
       .next { s with h := some r.1, ctr := some r.2, ph := .outDigLast })) ∧
    ∀ d : Digest, s.idig = some d → exec .outDigLast s =
      (let r := engine.updateLast h c d.toList
       .next { s with h := some r.1, hs := .final, ctr := some r.2, ph := .outFinish })

/-- OUT_FINISH (R159): the tag is stored at DST[0..64) and `H` is consumed. -/
def Obligations.OutFinishStoresTheTag : Prop :=
  ∀ (s : State) (h : HashState) (c : U128), s.h = some h → s.ctr = some c → s.hs = .final →
    64 ≤ s.dstCap.toNat →
    exec .outFinish s = .next { s with
      dstMem := Memory.writeBytes s.dstMem 0 (engine.finish h c).toList,
      h := none, hs := .empty, ph := .retire }

/-- The bytes OUT_FINISH stores and the bytes it leaves (20_memory R44): DST[i] is byte i of the tag for i < 64, and
every other byte of DST, and every byte of KEY and DATA, reads as before. -/
def Obligations.OutFinishWritesSixtyFourBytes : Prop :=
  ∀ (s : State) (h : HashState) (c : U128), s.h = some h → s.ctr = some c → s.hs = .final →
    64 ≤ s.dstCap.toNat → Memory.wf s.dstMem →
    ∃ t, exec .outFinish s = .next t ∧
      (∀ a, a < 64 → Memory.read t.dstMem a = (engine.finish h c).get a) ∧
      (∀ a, 64 ≤ a → Memory.read t.dstMem a = Memory.read s.dstMem a) ∧
      (∀ a, Memory.read t.keyMem a = Memory.read s.keyMem a ∧ Memory.read t.dataMem a = Memory.read s.dataMem a)

/-! ### Engine commands -/

/-- INIT, UPDATE_MULTI, UPDATE_LAST as instructions (R111, R112, R114), for every `LEN` and bus: with the required `HS`
and `LEN` they write `H`, `HS` and `CTR` and nothing else, the counter advanced by the bytes given (the block is the
bus's 128 lanes, the chunk its first LEN); otherwise they fault and change nothing else. That a command runs as an
instruction of its own, and then leaves PH as it is, is the model's (log 2). -/
def Obligations.EngineCommandsUpdateTheHashState : Prop :=
  ∀ s : State,
    let f : State := { s with faultCode := 4, fault := true, busy := false, ph := .faulted }
    (∀ len : Byte, exec (.init len) s = .next
      (if len = 0 then { s with h := some engine.init, hs := .absorbing, ctr := some 0 } else f)) ∧
    ∀ (h : HashState) (c : U128) (len : Byte) (blk : BitVec 1024), s.h = some h → s.ctr = some c →
      exec (.updateMulti len blk) s = .next
        (if s.hs = .absorbing ∧ len = 128 then { s with
          h := some (engine.updateMulti h c
            (Bytes.ofList 128 ((List.range 128).map fun i => blk.extractLsb' (8 * i) 8))).1,
          hs := .absorbing, ctr := some (c + 128) }
        else f) ∧
      exec (.updateLast len blk) s = .next
        (if s.hs = .absorbing ∧ len.toNat ≤ 128 then { s with
          h := some (engine.updateLast h c ((List.range len.toNat).map fun i => blk.extractLsb' (8 * i) 8)).1,
          hs := .final, ctr := some (c + BitVec.ofNat 128 len.toNat) }
        else f)

/-- FINISH as an instruction (R115): the digest is the response, byte `i` in bits `8i+7 : 8i` of the 512-bit `DIGEST` bus
(R64; 20_memory R46), `H` is consumed, `CTR` and PH stay. That the response stands in `portDigest`, and that PH stays, is
the model's (log 2). -/
def Obligations.FinishCommandAnswersTheDigest : Prop :=
  ∀ (s : State) (h : HashState) (c : U128), s.h = some h → s.ctr = some c → s.hs = .final →
    ∃ bus : BitVec 512,
      exec (.finish 0) s = .next { s with portDigest := some bus, h := none, hs := .empty } ∧
      ∀ i, i < 64 → bus.extractLsb' (8 * i) 8 = (engine.finish h c).get i

/-- What the port checks (R69, R116): a command with the wrong HS or an illegal LEN raises ENGINE_ASSERT and changes
nothing else. -/
def Obligations.PortRejectsIllegalCommands : Prop :=
  ∀ (s : State) (len : Byte) (blk : BitVec 1024),
    let f : Result := .next { s with faultCode := 4, fault := true, busy := false, ph := .faulted }
    (len ≠ 0 → exec (.init len) s = f) ∧
    (s.hs ≠ .absorbing ∨ len ≠ 128 → exec (.updateMulti len blk) s = f) ∧
    (s.hs ≠ .absorbing ∨ 128 < len.toNat → exec (.updateLast len blk) s = f) ∧
    (s.hs ≠ .final ∨ len ≠ 0 → exec (.finish len) s = f)

/-- A micro-operation writes `H`, `HS` and `CTR` exactly as the engine command it issues does (R64; 95_test_vectors
ENC2): there is a bus content for which the command of the issued header, run as an instruction, leaves the same. That a
command runs as an instruction of its own, and then leaves PH as it is, is the model's (log 2). The bytes on the bus are
those of the statements of the micro-operations. -/
def Obligations.MicroOpsIssueTheirEngineCommand : Prop :=
  ∀ (p : Phase) (s t : State) (hdr : BitVec 10),
    issuedHeader p s = some hdr → microOp engine p s = .ok t →
    ∃ (blk : BitVec 1024) (u : State), exec (decodeEc hdr blk) s = .next u ∧ u.ph = s.ph ∧
      u.h = t.h ∧ u.hs = t.hs ∧ u.ctr = t.ctr

/-- The machine's engine keeps the counter contract (R117). -/
def Obligations.EngineKeepsTheCounterContract : Prop := engine.CounterContract

/-! ### What a micro-operation needs -/

/-- The assertions of R204, and what the model asserts beside them in states that no run reaches, are the only faults
after CHECK: a micro-operation completes exactly where none fails, and otherwise takes ENGINE_ASSERT and has no other
effect. The model's own are a KEYBLK without a value at KN_COPY and KH_FINISH (log 10), a read of more than 128 bytes
(log 11) and the bounds of a LEN - OFF that wraps (log 12). -/
def Obligations.MicroOpsAssertExactlyWhenNotReady : Prop :=
  ∀ (p : Phase) (s : State), p ≠ .check →
    (microOpReady p s = true → ∃ t, microOp engine p s = .ok t ∧ exec p.instr s = .next t) ∧
    (microOpReady p s = false → exec p.instr s =
      .next { s with faultCode := 4, fault := true, busy := false, ph := .faulted })

/-- In a run no assertion fails (R45, R204, R238): every register a micro-operation reads holds a value, every access
is in bounds, every engine command is in order. -/
def Obligations.RunsNeverAssert : Prop :=
  ∀ s : State, Inv s → microOpReady s.ph s = true

/-- In a run the sequencer issues legal commands only (R69), and no UPDATE_LAST with LEN = 0 (R163). -/
def Obligations.IssuedCommandsAreLegal : Prop :=
  ∀ (s : State) (hdr : BitVec 10) (blk : BitVec 1024), Inv s → issuedHeader s.ph s = some hdr →
    (decodeEc hdr blk).wf = true ∧ decodeEc hdr blk ≠ .updateLast 0 blk

/-! ### Frames and control flow -/

/-- No instruction writes KEY, DATA or a capacity, and only OUT_FINISH writes DST, whole or not at all (20_memory R44,
R48, R49): every byte reads as before, or the 64 bytes of one digest are stored at offset 0. -/
def Obligations.OnlyOutFinishWritesMemory : Prop :=
  ∀ (i : Instr) (s t : State), exec i s = .next t →
    (∀ a, Memory.read t.keyMem a = Memory.read s.keyMem a ∧ Memory.read t.dataMem a = Memory.read s.dataMem a) ∧
    (t.keyCap, t.dataCap, t.dstCap) = (s.keyCap, s.dataCap, s.dstCap) ∧
    (t.dstMem = s.dstMem ∨ i = .outFinish ∧ ∃ d : Digest, t.dstMem = Memory.writeBytes s.dstMem 0 d.toList)

/-- The successor table (R141) for every sequencer step of a run: CHECK may fault, and does so exactly where the
contract fails; every other micro-operation writes the successor shown, on the values after its own updates. -/
def Obligations.SuccessorTableHolds : Prop :=
  ∀ s t : State, Inv s → s.ph ≠ .idle → s.ph ≠ .faulted → exec s.ph.instr s = .next t →
    (s.ph = .check → contractHolds s = false → t.ph = .faulted) ∧
    ((s.ph = .check → contractHolds s = true) → t.ph = successor s.ph t)

/-- The sequencer's path never depends on a byte of the key, of the message, of a register or of a hash state (R250):
two states that agree on the rest run through states that agree on it, for any two engines over any two state types. -/
def Obligations.ControlFlowIgnoresBytes : Prop :=
  ∀ (σ σ' : Type) (E : Engine σ) (E' : Engine σ') (n : Nat) (s : State.Of σ) (s' : State.Of σ'), skeleton s = skeleton s' →
    (∃ t t', seqRun E n s = .ok t ∧ seqRun E' n s' = .ok t' ∧ skeleton t = skeleton t') ∨
    ∃ c, seqRun E n s = .error c ∧ seqRun E' n s' = .error c

/-! ### Invariants -/

/-- Every instruction answers a next state, in every state: none stops the machine. An engine that always answers is
log 17. -/
def Obligations.EveryInstructionAnswersANextState : Prop :=
  ∀ (i : Instr) (s : State), ∃ t, exec i s = .next t

/-- A run meets neither a fault nor a refusal of the model as long as the platform only resets. The two ways to stop are
the model's (log 7, 18), and that every step answers rests on an engine that always answers (log 17). -/
def Obligations.RunsWithoutHostErrorsAreSafe : Prop :=
  ∀ s : State, (∀ a, .platform a ∈ s.inputs → a = .reset) → Safe s

/-- The invariant holds after reset. The values of the capacities are the model's (log 5). -/
def Obligations.InvariantHoldsAtReset : Prop := Inv State.reset

/-- Every step of a run keeps the invariant: STATUS agrees with PH, every register of the table of R238 holds a value
exactly where that table says, CTR and OFF have the values of R161, CHECK has passed, the spaces are canonical. -/
def Obligations.EveryStepKeepsTheInvariant : Prop :=
  ∀ s t : State, Inv s → step s = .next t → Inv t

/-- Every step keeps the spaces in canonical form and within their capacities, in every state and with any input (the
canonical form is the model's, log 6). -/
def Obligations.EveryStepKeepsMemoryCanonical : Prop :=
  ∀ s t : State, MemoryInv s → step s = .next t → MemoryInv t

/-- The counter of a run stays below 2^33, so CTR_HI = 0 (R161, 10_state R27). -/
def Obligations.CounterHighHalfStaysZero : Prop :=
  ∀ (s : State) (c : U128), Inv s → s.ctr = some c → c.toNat < 2 ^ 33 ∧ ctrHi c = 0

/-! ### Whole runs -/

/-- The key normalizer (R89): from KB_CLEAR it first reaches PD_IPAD after the steps counted by R91, with KEYBLK the
normalized key, for every engine over every state type. -/
def Obligations.NormalizerComputesTheKeyBlock : Prop :=
  ∀ (σ : Type) (E : Engine σ) (s : State.Of σ), s.ph = .kbClear → s.keyLen.toNat ≤ s.keyCap.toNat →
    (∃ t, seqRun E (normalizerSteps s.keyLen.toNat) s = .ok t ∧ t.ph = .pdIpad ∧
      t.keyblk = some (normalize E (keyBytes s))) ∧
    ∀ j, j < normalizerSteps s.keyLen.toNat → ∃ u, seqRun E j s = .ok u ∧ u.ph ≠ .pdIpad

/-- A COMPUTE for every engine over every state type (R164, R162, R195, 42 R119): from CHECK, the contract holding, it
reaches RETIRE one step before the end of the counted steps with the tag in DST[0..64), and ends in IDLE with DONE = 1,
every data register without a value, and nothing else changed. That it ends rests on engines that always answer
(log 17). -/
def Obligations.ComputeWritesTheTagForEveryEngine : Prop :=
  ∀ (σ : Type) (E : Engine σ) (s : State.Of σ), s.ph = .check → contractHolds s = true →
    (∃ t, seqRun E (computeSteps s.keyLen.toNat s.dataLen.toNat - 1) s = .ok t ∧ t.ph = .retire ∧
      t.dstMem = Memory.writeBytes s.dstMem 0 (hmacTag E (keyBytes s) (messageBytes s)).toList) ∧
    seqRun E (computeSteps s.keyLen.toNat s.dataLen.toNat) s = .ok { s with
      busy := false, done := true, ph := .idle,
      keyblk := none, ipad := none, opad := none, idig := none, h := none, hs := .empty, ctr := none, off := none,
      dstMem := Memory.writeBytes s.dstMem 0 (hmacTag E (keyBytes s) (messageBytes s)).toList }

/-- The same on the machine (R164), and the other end of a launch: where the contract fails the first step is a fault
that changes nothing but STATUS and PH (R162, R205). The empty schedule is log 1, the engine log 4, and that the run ends
rests on an engine that always answers (log 17). -/
def Obligations.ComputeWritesTheTag : Prop :=
  ∀ s : State, s.ph = .check → s.inputs = [] →
    (contractHolds s = true →
      Host.Core.run Sys2Proof.core (computeSteps s.keyLen.toNat s.dataLen.toNat) s = .next { s with
        busy := false, done := true, ph := .idle,
        keyblk := none, ipad := none, opad := none, idig := none, h := none, hs := .empty, ctr := none, off := none,
        dstMem := Memory.writeBytes s.dstMem 0 (hmacTag engine (keyBytes s) (messageBytes s)).toList }) ∧
    (contractHolds s = false →
      ∃ c : FaultCause, c ≠ .engineAssert ∧ Host.Core.run Sys2Proof.core 1 s =
        .next { s with faultCode := c.code, fault := true, busy := false, ph := .faulted })

/-- The interleaving cannot be seen (R180): while BUSY = 1, any schedule of host transactions and sequencer turns ends
where the sequencer's turns alone end, but for what reads returned (log 3). BUSY stays 1 to the end of it, so a schedule
that takes in RETIRE's turn or a failing CHECK is left out. The schedule is the model's (log 1). -/
def Obligations.InterleavingCannotBeSeen : Prop :=
  ∀ (s u : State) (turns : List Input),
    (∀ x ∈ turns, x = .sequencer ∨ ∃ w, x = .host w) → s.inputs = turns →
    (∀ j, j ≤ turns.count .sequencer → ∃ v, seqRun engine j s = .ok v ∧ v.busy = true) →
    seqRun engine (turns.count .sequencer) s = .ok u →
    ∃ r, Host.Core.run Sys2Proof.core turns.length s = .next { u with inputs := [], rdData := r }

/-- The one operation, as a host performs it (R199, 30_encoding R72): the two lengths, START, and a POLL, which reads
STATUS until BUSY = 0. Where the contract holds the last read returns DONE alone, the tag is in DST[0..64), and nothing
else is changed but the length registers; where it fails the POLL ends too, its last read returns FAULT and the cause,
and nothing else is changed. The schedule is the model's (log 1), and so is the place of the returned value (log 3); that
the run ends rests on an engine that always answers (log 17). -/
def Obligations.ComputeThroughTheRegisterFile : Prop :=
  ∀ (s : State) (kl dl : Word32),
    s.busy = false → s.fault = false → s.faultCode = 0 → s.inputs = pseudoCompute kl dl →
    (contractHolds { s with keyLen := kl, dataLen := dl } = true →
      Host.Core.run Sys2Proof.core (2 * computeSteps kl.toNat dl.toNat + 4) s = .next { s with
        keyLen := kl, dataLen := dl, busy := false, done := true, ph := .idle,
        keyblk := none, ipad := none, opad := none, idig := none, h := none, hs := .empty, ctr := none, off := none,
        inputs := [], rdData := some 2,
        dstMem := Memory.writeBytes s.dstMem 0
          (hmacTag engine (Memory.readBytes s.keyMem 0 kl.toNat) (Memory.readBytes s.dataMem 0 dl.toNat)).toList }) ∧
    (contractHolds { s with keyLen := kl, dataLen := dl } = false →
      ∃ c : FaultCause, c ≠ .engineAssert ∧ Host.Core.run Sys2Proof.core 6 s = .next { s with
        keyLen := kl, dataLen := dl, busy := false, done := false, fault := true, faultCode := c.code, ph := .faulted,
        inputs := [], rdData := some (BitVec.ofNat 32 (4 + 16 * c.code.toNat)) })
end

