-- ==== Sys2Proof/Laws/Bytes.lean ====
section
/-! SUPPORT. Byte arrays of fixed length, the engine port's lanes, and bytes of numbers. -/

namespace Sys2Proof

theorem Bytes.ext {n : Nat} {x y : Bytes n} (h : x.toList = y.toList) : x = y := by
  cases x; cases y; simp_all

@[simp] theorem Bytes.toList_length {n : Nat} (x : Bytes n) : x.toList.length = n := x.length_toList

@[simp] theorem Bytes.zeros_toList (n : Nat) : (Bytes.zeros n).toList = List.replicate n 0 := rfl

@[simp] theorem Bytes.rep_toList (v : Byte) (n : Nat) : (Bytes.rep v n).toList = List.replicate n v := rfl

theorem Bytes.ofList_toList (n : Nat) (l : List Byte) :
    (Bytes.ofList n l).toList = (l ++ List.replicate n 0).take n := rfl

/-- A list of the right length is its own byte array. -/
theorem Bytes.ofList_of_length {n : Nat} {l : List Byte} (h : l.length = n) : (Bytes.ofList n l).toList = l := by
  subst h; simp [Bytes.ofList_toList]

theorem Bytes.ofList_eq {n : Nat} (x : Bytes n) : Bytes.ofList n x.toList = x :=
  Bytes.ext (Bytes.ofList_of_length x.length_toList)

@[simp] theorem length_leBytes (n v : Nat) : (leBytes n v).length = n := by
  induction n generalizing v with
  | zero => rfl
  | succ n ih => simp [leBytes, ih]

/-- Reading back a number's bytes gives its low bits. -/
theorem leNat_leBytes (n v : Nat) : leNat (leBytes n v) = v % 2 ^ (8 * n) := by
  induction n generalizing v with
  | zero => simp [leBytes, leNat, Nat.mod_one]
  | succ n ih =>
    have e : 2 ^ (8 * (n + 1)) = 256 * 2 ^ (8 * n) := by rw [Nat.mul_add, Nat.pow_add]; omega
    rw [leBytes, leNat, ih, BitVec.toNat_ofNat, e, Nat.mod_mul]

namespace Machine

@[simp] theorem xorPad_toList {n : Nat} (k : Byte) (x : Bytes n) :
    (xorPad k x).toList = x.toList.map (k ^^^ ·) := rfl

theorem overwrite_toList {n : Nat} (x : Bytes n) (l : List Byte) :
    (overwrite x l).toList = (l ++ x.toList.drop l.length).take n := rfl

/-- Writing at most `n` bytes over zeros pads them with zeros (40_key_normalizer R80). -/
theorem overwrite_zeros {n : Nat} {l : List Byte} (h : l.length ≤ n) :
    overwrite (Bytes.zeros n) l = Bytes.ofList n l := by
  refine Bytes.ext ?_
  rw [overwrite_toList, Bytes.ofList_toList, Bytes.zeros_toList, List.drop_replicate]
  rw [List.take_append, List.take_append, List.take_replicate, List.take_replicate]
  congr 2; omega

@[simp] theorem length_laneBytes {w : Nat} (bus : BitVec w) (n : Nat) : (laneBytes bus n).length = n := by
  simp [laneBytes]

@[simp] theorem laneBlock_toList (blk : BitVec 1024) : (laneBlock blk).toList = laneBytes blk 128 := rfl

/-- The byte at position `i` of a little-endian number. -/
theorem leNat_byte (l : List Byte) (i : Nat) (h : i < l.length) :
    BitVec.ofNat 8 (leNat l / 2 ^ (8 * i)) = l[i] := by
  induction l generalizing i with
  | nil => simp at h
  | cons b l ih =>
    cases i with
    | zero =>
      refine BitVec.eq_of_toNat_eq ?_
      simp only [leNat, Nat.mul_zero, Nat.pow_zero, Nat.div_one, BitVec.toNat_ofNat, List.getElem_cons_zero]
      have := b.isLt; omega
    | succ i =>
      have hp : 2 ^ (8 * (i + 1)) = 256 * 2 ^ (8 * i) := by rw [Nat.mul_add, Nat.pow_add]; omega
      have hb : (b.toNat + 256 * leNat l) / 256 = leNat l := by have := b.isLt; omega
      rw [leNat, hp, ← Nat.div_div_eq_div_mul, hb, List.getElem_cons_succ]
      exact ih i (by simpa using h)

theorem leNat_lt (l : List Byte) : leNat l < 2 ^ (8 * l.length) := by
  induction l with
  | nil => simp [leNat]
  | cons b l ih =>
    have hp : 2 ^ (8 * (l.length + 1)) = 256 * 2 ^ (8 * l.length) := by rw [Nat.mul_add, Nat.pow_add]; omega
    simp only [leNat, List.length_cons, hp]
    have := b.isLt; omega

/-- A byte put on a bus stands in its lane (30_encoding R64). -/
theorem laneByte_busOf {w : Nat} {l : List Byte} (h : 8 * l.length ≤ w) {i : Nat} (hi : i < l.length) :
    laneByte (busOf w l) i = l[i] := by
  have hlt : leNat l < 2 ^ w := lt_of_lt_of_le (leNat_lt l) (Nat.pow_le_pow_right (by omega) h)
  have hbus : (busOf w l).toNat = leNat l := (BitVec.toNat_ofNat ..).trans (Nat.mod_eq_of_lt hlt)
  rw [laneByte, BitVec.extractLsb', hbus, Nat.shiftRight_eq_div_pow]
  exact leNat_byte l i hi

/-- Bytes put on a bus come back from its lanes (30_encoding R64). -/
theorem laneBytes_busOf {w : Nat} {l : List Byte} (h : 8 * l.length ≤ w) :
    laneBytes (busOf w l) l.length = l := by
  refine List.ext_getElem (by simp) fun i h1 h2 => ?_
  simp only [laneBytes, List.getElem_map, List.getElem_range, laneByte_busOf h h2]

/-- Byte `i` of a digest stands in lane `i` of the `DIGEST` bus (30_encoding R64; 20_memory R46). -/
theorem laneByte_digestBus (d : Digest) {i : Nat} (hi : i < 64) : laneByte (digestBus d) i = d.get i := by
  have hl : i < d.toList.length := by rw [d.length_toList]; exact hi
  rw [digestBus, laneByte_busOf (by rw [d.length_toList]) hl, Bytes.get, List.getD_eq_getElem _ _ hl]

end Machine

end Sys2Proof
end

