-- ==== Sys2Proof/Laws/Memory.lean ====
section
/-! SUPPORT. The laws of an operand space: read after write, frame, and that every operation keeps the canonical form
and the bound. -/

namespace Sys2Proof.Machine

@[simp] theorem Memory.read_nil (a : Nat) : Memory.read [] a = unlistedByte := rfl

theorem Memory.read_below_head {m : Memory} {a : Nat} (h : ∀ c ∈ m, a < c.1) :
    Memory.read m a = unlistedByte := by
  induction m with
  | nil => rfl
  | cons c m ih =>
    have hc := h c (by simp)
    rw [Memory.read, if_neg (by omega)]
    exact ih fun d hd => h d (by simp [hd])

theorem Memory.read_put_same {m : Memory} {a : Nat} (b : Byte) (h : ∀ c ∈ m, a < c.1) :
    Memory.read (Memory.put a b m) a = b := by
  unfold Memory.put
  split
  · rename_i hb; rw [Memory.read_below_head h, hb]
  · simp [Memory.read]

theorem Memory.read_put_other {m : Memory} {a x : Nat} (b : Byte) (h : x ≠ a) :
    Memory.read (Memory.put a b m) x = Memory.read m x := by
  unfold Memory.put
  split
  · rfl
  · simp [Memory.read, Ne.symm h]

/-- The offsets after a head cell are larger. -/
theorem Memory.wf_head {c : Host.Cell} {m : Memory} (h : Memory.wf (c :: m)) : ∀ d ∈ m, c.1 < d.1 :=
  (List.pairwise_cons.mp h.1).1

theorem Memory.wf_tail {c : Host.Cell} {m : Memory} (h : Memory.wf (c :: m)) : Memory.wf m :=
  ⟨(List.pairwise_cons.mp h.1).2, fun d hd => h.2 d (by simp [hd])⟩

/-- Read after write at the same offset. -/
theorem Memory.read_write_same {m : Memory} (hm : Memory.wf m) (a : Nat) (b : Byte) :
    Memory.read (Memory.write m a b) a = b := by
  induction m with
  | nil => exact Memory.read_put_same b (by simp)
  | cons c m ih =>
    have hd := Memory.wf_head hm
    unfold Memory.write
    split
    · rename_i hlt
      refine Memory.read_put_same b fun d hd' => ?_
      rcases List.mem_cons.mp hd' with rfl | h
      · exact hlt
      · have := hd d h; omega
    · split
      · rename_i he
        exact Memory.read_put_same b fun d h => by have := hd d h; omega
      · rw [Memory.read, if_neg (by omega)]
        exact ih (Memory.wf_tail hm)

/-- A write leaves every other offset alone. -/
theorem Memory.read_write_other {m : Memory} {a x : Nat} (b : Byte) (h : x ≠ a) :
    Memory.read (Memory.write m a b) x = Memory.read m x := by
  induction m with
  | nil => exact Memory.read_put_other b h
  | cons c m ih =>
    unfold Memory.write
    split
    · exact Memory.read_put_other b h
    · split
      · rename_i he
        rw [Memory.read_put_other b h, Memory.read, if_neg (by omega)]
      · simp only [Memory.read, ih]

theorem Memory.mem_put {d : Host.Cell} {a : Nat} {b : Byte} {m : Memory} (h : d ∈ Memory.put a b m) :
    d = (a, b) ∨ d ∈ m := by
  unfold Memory.put at h
  split at h
  · exact .inr h
  · simpa using h

/-- What a write can list: the written cell and cells listed before. -/
theorem Memory.mem_write {d : Host.Cell} {m : Memory} {a : Nat} {b : Byte} (h : d ∈ Memory.write m a b) :
    d = (a, b) ∨ d ∈ m := by
  induction m with
  | nil => exact Memory.mem_put h
  | cons c m ih =>
    unfold Memory.write at h
    split at h
    · exact Memory.mem_put h
    · split at h
      · exact (Memory.mem_put h).imp_right (List.mem_cons_of_mem c)
      · rcases List.mem_cons.mp h with rfl | h
        · exact .inr (by simp)
        · exact (ih h).imp_right (List.mem_cons_of_mem c)

theorem Memory.put_wf {m : Memory} {a : Nat} {b : Byte} (hm : Memory.wf m) (h : ∀ c ∈ m, a < c.1) :
    Memory.wf (Memory.put a b m) := by
  unfold Memory.put
  split
  · exact hm
  · rename_i hb
    refine ⟨List.pairwise_cons.mpr ⟨h, hm.1⟩, fun c hc => ?_⟩
    rcases List.mem_cons.mp hc with rfl | hc
    · exact hb
    · exact hm.2 c hc

/-- A write keeps the canonical form. -/
theorem Memory.write_wf {m : Memory} (hm : Memory.wf m) (a : Nat) (b : Byte) :
    Memory.wf (Memory.write m a b) := by
  induction m with
  | nil => exact Memory.put_wf hm (by simp)
  | cons c m ih =>
    have hd := Memory.wf_head hm
    have ht := Memory.wf_tail hm
    unfold Memory.write
    split
    · rename_i hlt
      refine Memory.put_wf hm fun d h => ?_
      rcases List.mem_cons.mp h with rfl | h
      · exact hlt
      · have := hd d h; omega
    · split
      · exact Memory.put_wf ht fun d h => by have := hd d h; omega
      · refine ⟨List.pairwise_cons.mpr ⟨fun d h => ?_, (ih ht).1⟩, fun d h => ?_⟩
        · rcases Memory.mem_write h with rfl | h
          · show c.1 < a; omega
          · exact hd d h
        · rcases List.mem_cons.mp h with rfl | h
          · exact hm.2 d (by simp)
          · exact (ih ht).2 d h

theorem Memory.write_below {m : Memory} {n a : Nat} (hm : Memory.below m n) (h : a < n) (b : Byte) :
    Memory.below (Memory.write m a b) n := fun d hd =>
  (Memory.mem_write hd).elim (fun e => e ▸ h) (hm d)

theorem Memory.writeBytes_wf {m : Memory} (hm : Memory.wf m) (off : Nat) (bs : List Byte) :
    Memory.wf (Memory.writeBytes m off bs) := by
  induction bs generalizing m off with
  | nil => exact hm
  | cons b bs ih => exact ih (Memory.write_wf hm off b) (off + 1)

theorem Memory.writeBytes_below {m : Memory} {n : Nat} (hm : Memory.below m n) (off : Nat) (bs : List Byte)
    (h : off + bs.length ≤ n) : Memory.below (Memory.writeBytes m off bs) n := by
  induction bs generalizing m off with
  | nil => exact hm
  | cons b bs ih =>
    simp only [List.length_cons] at h
    exact ih (Memory.write_below hm (by omega) b) (off + 1) (by omega)

/-- A store leaves every offset outside its bytes alone. -/
theorem Memory.read_writeBytes_outside {m : Memory} {off x : Nat} {bs : List Byte}
    (h : x < off ∨ off + bs.length ≤ x) : Memory.read (Memory.writeBytes m off bs) x = Memory.read m x := by
  induction bs generalizing m off with
  | nil => rfl
  | cons b bs ih =>
    simp only [List.length_cons] at h
    rw [Memory.writeBytes, ih (by omega), Memory.read_write_other b (by omega)]

/-- A stored byte reads back. -/
theorem Memory.read_writeBytes_inside {m : Memory} (hm : Memory.wf m) {off i : Nat} {bs : List Byte}
    (h : i < bs.length) : Memory.read (Memory.writeBytes m off bs) (off + i) = bs[i] := by
  induction bs generalizing m off i with
  | nil => simp at h
  | cons b bs ih =>
    rw [Memory.writeBytes]
    cases i with
    | zero =>
      rw [Memory.read_writeBytes_outside (by omega)]
      exact Memory.read_write_same hm off b
    | succ i =>
      have := ih (Memory.write_wf hm off b) (off := off + 1) (i := i) (by simpa using h)
      rw [show off + (i + 1) = off + 1 + i by omega, this]
      rfl

/-- Stored bytes read back. -/
theorem Memory.readBytes_writeBytes {m : Memory} (hm : Memory.wf m) (off : Nat) (bs : List Byte) :
    Memory.readBytes (Memory.writeBytes m off bs) off bs.length = bs := by
  induction bs generalizing m off with
  | nil => rfl
  | cons b bs ih =>
    simp only [List.length_cons, Memory.readBytes, Memory.writeBytes]
    rw [Memory.read_writeBytes_outside (by omega), Memory.read_write_same hm off b,
      ih (Memory.write_wf hm off b)]

/-- Two reads in a row are one read. -/
theorem Memory.readBytes_add (m : Memory) (off n k : Nat) :
    Memory.readBytes m off (n + k) = Memory.readBytes m off n ++ Memory.readBytes m (off + n) k := by
  induction n generalizing off with
  | zero => simp [Memory.readBytes]
  | succ n ih =>
    rw [show n + 1 + k = n + k + 1 by omega]
    simp only [Memory.readBytes, ih, List.cons_append]
    rw [show off + 1 + n = off + (n + 1) by omega]

theorem Memory.nil_wf : Memory.wf [] := ⟨.nil, by simp⟩

theorem Memory.nil_below (n : Nat) : Memory.below [] n := by simp [Memory.below]

/-- The spaces of the reset state are in canonical form. -/
theorem reset_memory_wf :
    Memory.wf State.reset.keyMem ∧ Memory.wf State.reset.dataMem ∧ Memory.wf State.reset.dstMem :=
  ⟨Memory.nil_wf, Memory.nil_wf, Memory.nil_wf⟩

end Sys2Proof.Machine
end

