-- ==== Sys2Proof/Laws/State.lean ====
section
/-! SUPPORT. One lemma per field per named update of State (Machine/Update.lean), each true by rfl. -/

namespace Sys2Proof.Machine

section
variable {σ : Type} (s : State.Of σ)

/-! setStatus -/

@[simp] theorem setStatus_busy (b d f : Bool) (c : BitVec 4) : (s.setStatus b d f c).busy = b := rfl
@[simp] theorem setStatus_done (b d f : Bool) (c : BitVec 4) : (s.setStatus b d f c).done = d := rfl
@[simp] theorem setStatus_fault (b d f : Bool) (c : BitVec 4) : (s.setStatus b d f c).fault = f := rfl
@[simp] theorem setStatus_faultCode (b d f : Bool) (c : BitVec 4) : (s.setStatus b d f c).faultCode = c := rfl
@[simp] theorem setStatus_keyLen (b d f : Bool) (c : BitVec 4) : (s.setStatus b d f c).keyLen = s.keyLen := rfl
@[simp] theorem setStatus_dataLen (b d f : Bool) (c : BitVec 4) : (s.setStatus b d f c).dataLen = s.dataLen := rfl
@[simp] theorem setStatus_keyCap (b d f : Bool) (c : BitVec 4) : (s.setStatus b d f c).keyCap = s.keyCap := rfl
@[simp] theorem setStatus_dataCap (b d f : Bool) (c : BitVec 4) : (s.setStatus b d f c).dataCap = s.dataCap := rfl
@[simp] theorem setStatus_dstCap (b d f : Bool) (c : BitVec 4) : (s.setStatus b d f c).dstCap = s.dstCap := rfl
@[simp] theorem setStatus_ph (b d f : Bool) (c : BitVec 4) : (s.setStatus b d f c).ph = s.ph := rfl
@[simp] theorem setStatus_keyblk (b d f : Bool) (c : BitVec 4) : (s.setStatus b d f c).keyblk = s.keyblk := rfl
@[simp] theorem setStatus_ipad (b d f : Bool) (c : BitVec 4) : (s.setStatus b d f c).ipad = s.ipad := rfl
@[simp] theorem setStatus_opad (b d f : Bool) (c : BitVec 4) : (s.setStatus b d f c).opad = s.opad := rfl
@[simp] theorem setStatus_idig (b d f : Bool) (c : BitVec 4) : (s.setStatus b d f c).idig = s.idig := rfl
@[simp] theorem setStatus_h (b d f : Bool) (c : BitVec 4) : (s.setStatus b d f c).h = s.h := rfl
@[simp] theorem setStatus_hs (b d f : Bool) (c : BitVec 4) : (s.setStatus b d f c).hs = s.hs := rfl
@[simp] theorem setStatus_ctr (b d f : Bool) (c : BitVec 4) : (s.setStatus b d f c).ctr = s.ctr := rfl
@[simp] theorem setStatus_off (b d f : Bool) (c : BitVec 4) : (s.setStatus b d f c).off = s.off := rfl
@[simp] theorem setStatus_keyMem (b d f : Bool) (c : BitVec 4) : (s.setStatus b d f c).keyMem = s.keyMem := rfl
@[simp] theorem setStatus_dataMem (b d f : Bool) (c : BitVec 4) : (s.setStatus b d f c).dataMem = s.dataMem := rfl
@[simp] theorem setStatus_dstMem (b d f : Bool) (c : BitVec 4) : (s.setStatus b d f c).dstMem = s.dstMem := rfl
@[simp] theorem setStatus_inputs (b d f : Bool) (c : BitVec 4) : (s.setStatus b d f c).inputs = s.inputs := rfl
@[simp] theorem setStatus_rdData (b d f : Bool) (c : BitVec 4) : (s.setStatus b d f c).rdData = s.rdData := rfl
@[simp] theorem setStatus_portDigest (b d f : Bool) (c : BitVec 4) : (s.setStatus b d f c).portDigest = s.portDigest := rfl

/-! setPh -/

@[simp] theorem setPh_busy (v : Phase) : (s.setPh v).busy = s.busy := rfl
@[simp] theorem setPh_done (v : Phase) : (s.setPh v).done = s.done := rfl
@[simp] theorem setPh_fault (v : Phase) : (s.setPh v).fault = s.fault := rfl
@[simp] theorem setPh_faultCode (v : Phase) : (s.setPh v).faultCode = s.faultCode := rfl
@[simp] theorem setPh_keyLen (v : Phase) : (s.setPh v).keyLen = s.keyLen := rfl
@[simp] theorem setPh_dataLen (v : Phase) : (s.setPh v).dataLen = s.dataLen := rfl
@[simp] theorem setPh_keyCap (v : Phase) : (s.setPh v).keyCap = s.keyCap := rfl
@[simp] theorem setPh_dataCap (v : Phase) : (s.setPh v).dataCap = s.dataCap := rfl
@[simp] theorem setPh_dstCap (v : Phase) : (s.setPh v).dstCap = s.dstCap := rfl
@[simp] theorem setPh_ph (v : Phase) : (s.setPh v).ph = v := rfl
@[simp] theorem setPh_keyblk (v : Phase) : (s.setPh v).keyblk = s.keyblk := rfl
@[simp] theorem setPh_ipad (v : Phase) : (s.setPh v).ipad = s.ipad := rfl
@[simp] theorem setPh_opad (v : Phase) : (s.setPh v).opad = s.opad := rfl
@[simp] theorem setPh_idig (v : Phase) : (s.setPh v).idig = s.idig := rfl
@[simp] theorem setPh_h (v : Phase) : (s.setPh v).h = s.h := rfl
@[simp] theorem setPh_hs (v : Phase) : (s.setPh v).hs = s.hs := rfl
@[simp] theorem setPh_ctr (v : Phase) : (s.setPh v).ctr = s.ctr := rfl
@[simp] theorem setPh_off (v : Phase) : (s.setPh v).off = s.off := rfl
@[simp] theorem setPh_keyMem (v : Phase) : (s.setPh v).keyMem = s.keyMem := rfl
@[simp] theorem setPh_dataMem (v : Phase) : (s.setPh v).dataMem = s.dataMem := rfl
@[simp] theorem setPh_dstMem (v : Phase) : (s.setPh v).dstMem = s.dstMem := rfl
@[simp] theorem setPh_inputs (v : Phase) : (s.setPh v).inputs = s.inputs := rfl
@[simp] theorem setPh_rdData (v : Phase) : (s.setPh v).rdData = s.rdData := rfl
@[simp] theorem setPh_portDigest (v : Phase) : (s.setPh v).portDigest = s.portDigest := rfl

/-! setKeyLen -/

@[simp] theorem setKeyLen_busy (v : Word32) : (s.setKeyLen v).busy = s.busy := rfl
@[simp] theorem setKeyLen_done (v : Word32) : (s.setKeyLen v).done = s.done := rfl
@[simp] theorem setKeyLen_fault (v : Word32) : (s.setKeyLen v).fault = s.fault := rfl
@[simp] theorem setKeyLen_faultCode (v : Word32) : (s.setKeyLen v).faultCode = s.faultCode := rfl
@[simp] theorem setKeyLen_keyLen (v : Word32) : (s.setKeyLen v).keyLen = v := rfl
@[simp] theorem setKeyLen_dataLen (v : Word32) : (s.setKeyLen v).dataLen = s.dataLen := rfl
@[simp] theorem setKeyLen_keyCap (v : Word32) : (s.setKeyLen v).keyCap = s.keyCap := rfl
@[simp] theorem setKeyLen_dataCap (v : Word32) : (s.setKeyLen v).dataCap = s.dataCap := rfl
@[simp] theorem setKeyLen_dstCap (v : Word32) : (s.setKeyLen v).dstCap = s.dstCap := rfl
@[simp] theorem setKeyLen_ph (v : Word32) : (s.setKeyLen v).ph = s.ph := rfl
@[simp] theorem setKeyLen_keyblk (v : Word32) : (s.setKeyLen v).keyblk = s.keyblk := rfl
@[simp] theorem setKeyLen_ipad (v : Word32) : (s.setKeyLen v).ipad = s.ipad := rfl
@[simp] theorem setKeyLen_opad (v : Word32) : (s.setKeyLen v).opad = s.opad := rfl
@[simp] theorem setKeyLen_idig (v : Word32) : (s.setKeyLen v).idig = s.idig := rfl
@[simp] theorem setKeyLen_h (v : Word32) : (s.setKeyLen v).h = s.h := rfl
@[simp] theorem setKeyLen_hs (v : Word32) : (s.setKeyLen v).hs = s.hs := rfl
@[simp] theorem setKeyLen_ctr (v : Word32) : (s.setKeyLen v).ctr = s.ctr := rfl
@[simp] theorem setKeyLen_off (v : Word32) : (s.setKeyLen v).off = s.off := rfl
@[simp] theorem setKeyLen_keyMem (v : Word32) : (s.setKeyLen v).keyMem = s.keyMem := rfl
@[simp] theorem setKeyLen_dataMem (v : Word32) : (s.setKeyLen v).dataMem = s.dataMem := rfl
@[simp] theorem setKeyLen_dstMem (v : Word32) : (s.setKeyLen v).dstMem = s.dstMem := rfl
@[simp] theorem setKeyLen_inputs (v : Word32) : (s.setKeyLen v).inputs = s.inputs := rfl
@[simp] theorem setKeyLen_rdData (v : Word32) : (s.setKeyLen v).rdData = s.rdData := rfl
@[simp] theorem setKeyLen_portDigest (v : Word32) : (s.setKeyLen v).portDigest = s.portDigest := rfl

/-! setDataLen -/

@[simp] theorem setDataLen_busy (v : Word32) : (s.setDataLen v).busy = s.busy := rfl
@[simp] theorem setDataLen_done (v : Word32) : (s.setDataLen v).done = s.done := rfl
@[simp] theorem setDataLen_fault (v : Word32) : (s.setDataLen v).fault = s.fault := rfl
@[simp] theorem setDataLen_faultCode (v : Word32) : (s.setDataLen v).faultCode = s.faultCode := rfl
@[simp] theorem setDataLen_keyLen (v : Word32) : (s.setDataLen v).keyLen = s.keyLen := rfl
@[simp] theorem setDataLen_dataLen (v : Word32) : (s.setDataLen v).dataLen = v := rfl
@[simp] theorem setDataLen_keyCap (v : Word32) : (s.setDataLen v).keyCap = s.keyCap := rfl
@[simp] theorem setDataLen_dataCap (v : Word32) : (s.setDataLen v).dataCap = s.dataCap := rfl
@[simp] theorem setDataLen_dstCap (v : Word32) : (s.setDataLen v).dstCap = s.dstCap := rfl
@[simp] theorem setDataLen_ph (v : Word32) : (s.setDataLen v).ph = s.ph := rfl
@[simp] theorem setDataLen_keyblk (v : Word32) : (s.setDataLen v).keyblk = s.keyblk := rfl
@[simp] theorem setDataLen_ipad (v : Word32) : (s.setDataLen v).ipad = s.ipad := rfl
@[simp] theorem setDataLen_opad (v : Word32) : (s.setDataLen v).opad = s.opad := rfl
@[simp] theorem setDataLen_idig (v : Word32) : (s.setDataLen v).idig = s.idig := rfl
@[simp] theorem setDataLen_h (v : Word32) : (s.setDataLen v).h = s.h := rfl
@[simp] theorem setDataLen_hs (v : Word32) : (s.setDataLen v).hs = s.hs := rfl
@[simp] theorem setDataLen_ctr (v : Word32) : (s.setDataLen v).ctr = s.ctr := rfl
@[simp] theorem setDataLen_off (v : Word32) : (s.setDataLen v).off = s.off := rfl
@[simp] theorem setDataLen_keyMem (v : Word32) : (s.setDataLen v).keyMem = s.keyMem := rfl
@[simp] theorem setDataLen_dataMem (v : Word32) : (s.setDataLen v).dataMem = s.dataMem := rfl
@[simp] theorem setDataLen_dstMem (v : Word32) : (s.setDataLen v).dstMem = s.dstMem := rfl
@[simp] theorem setDataLen_inputs (v : Word32) : (s.setDataLen v).inputs = s.inputs := rfl
@[simp] theorem setDataLen_rdData (v : Word32) : (s.setDataLen v).rdData = s.rdData := rfl
@[simp] theorem setDataLen_portDigest (v : Word32) : (s.setDataLen v).portDigest = s.portDigest := rfl

/-! setKeyblk -/

@[simp] theorem setKeyblk_busy (v : Option Block) : (s.setKeyblk v).busy = s.busy := rfl
@[simp] theorem setKeyblk_done (v : Option Block) : (s.setKeyblk v).done = s.done := rfl
@[simp] theorem setKeyblk_fault (v : Option Block) : (s.setKeyblk v).fault = s.fault := rfl
@[simp] theorem setKeyblk_faultCode (v : Option Block) : (s.setKeyblk v).faultCode = s.faultCode := rfl
@[simp] theorem setKeyblk_keyLen (v : Option Block) : (s.setKeyblk v).keyLen = s.keyLen := rfl
@[simp] theorem setKeyblk_dataLen (v : Option Block) : (s.setKeyblk v).dataLen = s.dataLen := rfl
@[simp] theorem setKeyblk_keyCap (v : Option Block) : (s.setKeyblk v).keyCap = s.keyCap := rfl
@[simp] theorem setKeyblk_dataCap (v : Option Block) : (s.setKeyblk v).dataCap = s.dataCap := rfl
@[simp] theorem setKeyblk_dstCap (v : Option Block) : (s.setKeyblk v).dstCap = s.dstCap := rfl
@[simp] theorem setKeyblk_ph (v : Option Block) : (s.setKeyblk v).ph = s.ph := rfl
@[simp] theorem setKeyblk_keyblk (v : Option Block) : (s.setKeyblk v).keyblk = v := rfl
@[simp] theorem setKeyblk_ipad (v : Option Block) : (s.setKeyblk v).ipad = s.ipad := rfl
@[simp] theorem setKeyblk_opad (v : Option Block) : (s.setKeyblk v).opad = s.opad := rfl
@[simp] theorem setKeyblk_idig (v : Option Block) : (s.setKeyblk v).idig = s.idig := rfl
@[simp] theorem setKeyblk_h (v : Option Block) : (s.setKeyblk v).h = s.h := rfl
@[simp] theorem setKeyblk_hs (v : Option Block) : (s.setKeyblk v).hs = s.hs := rfl
@[simp] theorem setKeyblk_ctr (v : Option Block) : (s.setKeyblk v).ctr = s.ctr := rfl
@[simp] theorem setKeyblk_off (v : Option Block) : (s.setKeyblk v).off = s.off := rfl
@[simp] theorem setKeyblk_keyMem (v : Option Block) : (s.setKeyblk v).keyMem = s.keyMem := rfl
@[simp] theorem setKeyblk_dataMem (v : Option Block) : (s.setKeyblk v).dataMem = s.dataMem := rfl
@[simp] theorem setKeyblk_dstMem (v : Option Block) : (s.setKeyblk v).dstMem = s.dstMem := rfl
@[simp] theorem setKeyblk_inputs (v : Option Block) : (s.setKeyblk v).inputs = s.inputs := rfl
@[simp] theorem setKeyblk_rdData (v : Option Block) : (s.setKeyblk v).rdData = s.rdData := rfl
@[simp] theorem setKeyblk_portDigest (v : Option Block) : (s.setKeyblk v).portDigest = s.portDigest := rfl

/-! setIpad -/

@[simp] theorem setIpad_busy (v : Option Block) : (s.setIpad v).busy = s.busy := rfl
@[simp] theorem setIpad_done (v : Option Block) : (s.setIpad v).done = s.done := rfl
@[simp] theorem setIpad_fault (v : Option Block) : (s.setIpad v).fault = s.fault := rfl
@[simp] theorem setIpad_faultCode (v : Option Block) : (s.setIpad v).faultCode = s.faultCode := rfl
@[simp] theorem setIpad_keyLen (v : Option Block) : (s.setIpad v).keyLen = s.keyLen := rfl
@[simp] theorem setIpad_dataLen (v : Option Block) : (s.setIpad v).dataLen = s.dataLen := rfl
@[simp] theorem setIpad_keyCap (v : Option Block) : (s.setIpad v).keyCap = s.keyCap := rfl
@[simp] theorem setIpad_dataCap (v : Option Block) : (s.setIpad v).dataCap = s.dataCap := rfl
@[simp] theorem setIpad_dstCap (v : Option Block) : (s.setIpad v).dstCap = s.dstCap := rfl
@[simp] theorem setIpad_ph (v : Option Block) : (s.setIpad v).ph = s.ph := rfl
@[simp] theorem setIpad_keyblk (v : Option Block) : (s.setIpad v).keyblk = s.keyblk := rfl
@[simp] theorem setIpad_ipad (v : Option Block) : (s.setIpad v).ipad = v := rfl
@[simp] theorem setIpad_opad (v : Option Block) : (s.setIpad v).opad = s.opad := rfl
@[simp] theorem setIpad_idig (v : Option Block) : (s.setIpad v).idig = s.idig := rfl
@[simp] theorem setIpad_h (v : Option Block) : (s.setIpad v).h = s.h := rfl
@[simp] theorem setIpad_hs (v : Option Block) : (s.setIpad v).hs = s.hs := rfl
@[simp] theorem setIpad_ctr (v : Option Block) : (s.setIpad v).ctr = s.ctr := rfl
@[simp] theorem setIpad_off (v : Option Block) : (s.setIpad v).off = s.off := rfl
@[simp] theorem setIpad_keyMem (v : Option Block) : (s.setIpad v).keyMem = s.keyMem := rfl
@[simp] theorem setIpad_dataMem (v : Option Block) : (s.setIpad v).dataMem = s.dataMem := rfl
@[simp] theorem setIpad_dstMem (v : Option Block) : (s.setIpad v).dstMem = s.dstMem := rfl
@[simp] theorem setIpad_inputs (v : Option Block) : (s.setIpad v).inputs = s.inputs := rfl
@[simp] theorem setIpad_rdData (v : Option Block) : (s.setIpad v).rdData = s.rdData := rfl
@[simp] theorem setIpad_portDigest (v : Option Block) : (s.setIpad v).portDigest = s.portDigest := rfl

/-! setOpad -/

@[simp] theorem setOpad_busy (v : Option Block) : (s.setOpad v).busy = s.busy := rfl
@[simp] theorem setOpad_done (v : Option Block) : (s.setOpad v).done = s.done := rfl
@[simp] theorem setOpad_fault (v : Option Block) : (s.setOpad v).fault = s.fault := rfl
@[simp] theorem setOpad_faultCode (v : Option Block) : (s.setOpad v).faultCode = s.faultCode := rfl
@[simp] theorem setOpad_keyLen (v : Option Block) : (s.setOpad v).keyLen = s.keyLen := rfl
@[simp] theorem setOpad_dataLen (v : Option Block) : (s.setOpad v).dataLen = s.dataLen := rfl
@[simp] theorem setOpad_keyCap (v : Option Block) : (s.setOpad v).keyCap = s.keyCap := rfl
@[simp] theorem setOpad_dataCap (v : Option Block) : (s.setOpad v).dataCap = s.dataCap := rfl
@[simp] theorem setOpad_dstCap (v : Option Block) : (s.setOpad v).dstCap = s.dstCap := rfl
@[simp] theorem setOpad_ph (v : Option Block) : (s.setOpad v).ph = s.ph := rfl
@[simp] theorem setOpad_keyblk (v : Option Block) : (s.setOpad v).keyblk = s.keyblk := rfl
@[simp] theorem setOpad_ipad (v : Option Block) : (s.setOpad v).ipad = s.ipad := rfl
@[simp] theorem setOpad_opad (v : Option Block) : (s.setOpad v).opad = v := rfl
@[simp] theorem setOpad_idig (v : Option Block) : (s.setOpad v).idig = s.idig := rfl
@[simp] theorem setOpad_h (v : Option Block) : (s.setOpad v).h = s.h := rfl
@[simp] theorem setOpad_hs (v : Option Block) : (s.setOpad v).hs = s.hs := rfl
@[simp] theorem setOpad_ctr (v : Option Block) : (s.setOpad v).ctr = s.ctr := rfl
@[simp] theorem setOpad_off (v : Option Block) : (s.setOpad v).off = s.off := rfl
@[simp] theorem setOpad_keyMem (v : Option Block) : (s.setOpad v).keyMem = s.keyMem := rfl
@[simp] theorem setOpad_dataMem (v : Option Block) : (s.setOpad v).dataMem = s.dataMem := rfl
@[simp] theorem setOpad_dstMem (v : Option Block) : (s.setOpad v).dstMem = s.dstMem := rfl
@[simp] theorem setOpad_inputs (v : Option Block) : (s.setOpad v).inputs = s.inputs := rfl
@[simp] theorem setOpad_rdData (v : Option Block) : (s.setOpad v).rdData = s.rdData := rfl
@[simp] theorem setOpad_portDigest (v : Option Block) : (s.setOpad v).portDigest = s.portDigest := rfl

/-! setIdig -/

@[simp] theorem setIdig_busy (v : Option Digest) : (s.setIdig v).busy = s.busy := rfl
@[simp] theorem setIdig_done (v : Option Digest) : (s.setIdig v).done = s.done := rfl
@[simp] theorem setIdig_fault (v : Option Digest) : (s.setIdig v).fault = s.fault := rfl
@[simp] theorem setIdig_faultCode (v : Option Digest) : (s.setIdig v).faultCode = s.faultCode := rfl
@[simp] theorem setIdig_keyLen (v : Option Digest) : (s.setIdig v).keyLen = s.keyLen := rfl
@[simp] theorem setIdig_dataLen (v : Option Digest) : (s.setIdig v).dataLen = s.dataLen := rfl
@[simp] theorem setIdig_keyCap (v : Option Digest) : (s.setIdig v).keyCap = s.keyCap := rfl
@[simp] theorem setIdig_dataCap (v : Option Digest) : (s.setIdig v).dataCap = s.dataCap := rfl
@[simp] theorem setIdig_dstCap (v : Option Digest) : (s.setIdig v).dstCap = s.dstCap := rfl
@[simp] theorem setIdig_ph (v : Option Digest) : (s.setIdig v).ph = s.ph := rfl
@[simp] theorem setIdig_keyblk (v : Option Digest) : (s.setIdig v).keyblk = s.keyblk := rfl
@[simp] theorem setIdig_ipad (v : Option Digest) : (s.setIdig v).ipad = s.ipad := rfl
@[simp] theorem setIdig_opad (v : Option Digest) : (s.setIdig v).opad = s.opad := rfl
@[simp] theorem setIdig_idig (v : Option Digest) : (s.setIdig v).idig = v := rfl
@[simp] theorem setIdig_h (v : Option Digest) : (s.setIdig v).h = s.h := rfl
@[simp] theorem setIdig_hs (v : Option Digest) : (s.setIdig v).hs = s.hs := rfl
@[simp] theorem setIdig_ctr (v : Option Digest) : (s.setIdig v).ctr = s.ctr := rfl
@[simp] theorem setIdig_off (v : Option Digest) : (s.setIdig v).off = s.off := rfl
@[simp] theorem setIdig_keyMem (v : Option Digest) : (s.setIdig v).keyMem = s.keyMem := rfl
@[simp] theorem setIdig_dataMem (v : Option Digest) : (s.setIdig v).dataMem = s.dataMem := rfl
@[simp] theorem setIdig_dstMem (v : Option Digest) : (s.setIdig v).dstMem = s.dstMem := rfl
@[simp] theorem setIdig_inputs (v : Option Digest) : (s.setIdig v).inputs = s.inputs := rfl
@[simp] theorem setIdig_rdData (v : Option Digest) : (s.setIdig v).rdData = s.rdData := rfl
@[simp] theorem setIdig_portDigest (v : Option Digest) : (s.setIdig v).portDigest = s.portDigest := rfl

/-! setHash -/

@[simp] theorem setHash_busy (v : Option σ) (l : HashLife) : (s.setHash v l).busy = s.busy := rfl
@[simp] theorem setHash_done (v : Option σ) (l : HashLife) : (s.setHash v l).done = s.done := rfl
@[simp] theorem setHash_fault (v : Option σ) (l : HashLife) : (s.setHash v l).fault = s.fault := rfl
@[simp] theorem setHash_faultCode (v : Option σ) (l : HashLife) : (s.setHash v l).faultCode = s.faultCode := rfl
@[simp] theorem setHash_keyLen (v : Option σ) (l : HashLife) : (s.setHash v l).keyLen = s.keyLen := rfl
@[simp] theorem setHash_dataLen (v : Option σ) (l : HashLife) : (s.setHash v l).dataLen = s.dataLen := rfl
@[simp] theorem setHash_keyCap (v : Option σ) (l : HashLife) : (s.setHash v l).keyCap = s.keyCap := rfl
@[simp] theorem setHash_dataCap (v : Option σ) (l : HashLife) : (s.setHash v l).dataCap = s.dataCap := rfl
@[simp] theorem setHash_dstCap (v : Option σ) (l : HashLife) : (s.setHash v l).dstCap = s.dstCap := rfl
@[simp] theorem setHash_ph (v : Option σ) (l : HashLife) : (s.setHash v l).ph = s.ph := rfl
@[simp] theorem setHash_keyblk (v : Option σ) (l : HashLife) : (s.setHash v l).keyblk = s.keyblk := rfl
@[simp] theorem setHash_ipad (v : Option σ) (l : HashLife) : (s.setHash v l).ipad = s.ipad := rfl
@[simp] theorem setHash_opad (v : Option σ) (l : HashLife) : (s.setHash v l).opad = s.opad := rfl
@[simp] theorem setHash_idig (v : Option σ) (l : HashLife) : (s.setHash v l).idig = s.idig := rfl
@[simp] theorem setHash_h (v : Option σ) (l : HashLife) : (s.setHash v l).h = v := rfl
@[simp] theorem setHash_hs (v : Option σ) (l : HashLife) : (s.setHash v l).hs = l := rfl
@[simp] theorem setHash_ctr (v : Option σ) (l : HashLife) : (s.setHash v l).ctr = s.ctr := rfl
@[simp] theorem setHash_off (v : Option σ) (l : HashLife) : (s.setHash v l).off = s.off := rfl
@[simp] theorem setHash_keyMem (v : Option σ) (l : HashLife) : (s.setHash v l).keyMem = s.keyMem := rfl
@[simp] theorem setHash_dataMem (v : Option σ) (l : HashLife) : (s.setHash v l).dataMem = s.dataMem := rfl
@[simp] theorem setHash_dstMem (v : Option σ) (l : HashLife) : (s.setHash v l).dstMem = s.dstMem := rfl
@[simp] theorem setHash_inputs (v : Option σ) (l : HashLife) : (s.setHash v l).inputs = s.inputs := rfl
@[simp] theorem setHash_rdData (v : Option σ) (l : HashLife) : (s.setHash v l).rdData = s.rdData := rfl
@[simp] theorem setHash_portDigest (v : Option σ) (l : HashLife) : (s.setHash v l).portDigest = s.portDigest := rfl

/-! setCtr -/

@[simp] theorem setCtr_busy (v : Option U128) : (s.setCtr v).busy = s.busy := rfl
@[simp] theorem setCtr_done (v : Option U128) : (s.setCtr v).done = s.done := rfl
@[simp] theorem setCtr_fault (v : Option U128) : (s.setCtr v).fault = s.fault := rfl
@[simp] theorem setCtr_faultCode (v : Option U128) : (s.setCtr v).faultCode = s.faultCode := rfl
@[simp] theorem setCtr_keyLen (v : Option U128) : (s.setCtr v).keyLen = s.keyLen := rfl
@[simp] theorem setCtr_dataLen (v : Option U128) : (s.setCtr v).dataLen = s.dataLen := rfl
@[simp] theorem setCtr_keyCap (v : Option U128) : (s.setCtr v).keyCap = s.keyCap := rfl
@[simp] theorem setCtr_dataCap (v : Option U128) : (s.setCtr v).dataCap = s.dataCap := rfl
@[simp] theorem setCtr_dstCap (v : Option U128) : (s.setCtr v).dstCap = s.dstCap := rfl
@[simp] theorem setCtr_ph (v : Option U128) : (s.setCtr v).ph = s.ph := rfl
@[simp] theorem setCtr_keyblk (v : Option U128) : (s.setCtr v).keyblk = s.keyblk := rfl
@[simp] theorem setCtr_ipad (v : Option U128) : (s.setCtr v).ipad = s.ipad := rfl
@[simp] theorem setCtr_opad (v : Option U128) : (s.setCtr v).opad = s.opad := rfl
@[simp] theorem setCtr_idig (v : Option U128) : (s.setCtr v).idig = s.idig := rfl
@[simp] theorem setCtr_h (v : Option U128) : (s.setCtr v).h = s.h := rfl
@[simp] theorem setCtr_hs (v : Option U128) : (s.setCtr v).hs = s.hs := rfl
@[simp] theorem setCtr_ctr (v : Option U128) : (s.setCtr v).ctr = v := rfl
@[simp] theorem setCtr_off (v : Option U128) : (s.setCtr v).off = s.off := rfl
@[simp] theorem setCtr_keyMem (v : Option U128) : (s.setCtr v).keyMem = s.keyMem := rfl
@[simp] theorem setCtr_dataMem (v : Option U128) : (s.setCtr v).dataMem = s.dataMem := rfl
@[simp] theorem setCtr_dstMem (v : Option U128) : (s.setCtr v).dstMem = s.dstMem := rfl
@[simp] theorem setCtr_inputs (v : Option U128) : (s.setCtr v).inputs = s.inputs := rfl
@[simp] theorem setCtr_rdData (v : Option U128) : (s.setCtr v).rdData = s.rdData := rfl
@[simp] theorem setCtr_portDigest (v : Option U128) : (s.setCtr v).portDigest = s.portDigest := rfl

/-! setOff -/

@[simp] theorem setOff_busy (v : Option Word32) : (s.setOff v).busy = s.busy := rfl
@[simp] theorem setOff_done (v : Option Word32) : (s.setOff v).done = s.done := rfl
@[simp] theorem setOff_fault (v : Option Word32) : (s.setOff v).fault = s.fault := rfl
@[simp] theorem setOff_faultCode (v : Option Word32) : (s.setOff v).faultCode = s.faultCode := rfl
@[simp] theorem setOff_keyLen (v : Option Word32) : (s.setOff v).keyLen = s.keyLen := rfl
@[simp] theorem setOff_dataLen (v : Option Word32) : (s.setOff v).dataLen = s.dataLen := rfl
@[simp] theorem setOff_keyCap (v : Option Word32) : (s.setOff v).keyCap = s.keyCap := rfl
@[simp] theorem setOff_dataCap (v : Option Word32) : (s.setOff v).dataCap = s.dataCap := rfl
@[simp] theorem setOff_dstCap (v : Option Word32) : (s.setOff v).dstCap = s.dstCap := rfl
@[simp] theorem setOff_ph (v : Option Word32) : (s.setOff v).ph = s.ph := rfl
@[simp] theorem setOff_keyblk (v : Option Word32) : (s.setOff v).keyblk = s.keyblk := rfl
@[simp] theorem setOff_ipad (v : Option Word32) : (s.setOff v).ipad = s.ipad := rfl
@[simp] theorem setOff_opad (v : Option Word32) : (s.setOff v).opad = s.opad := rfl
@[simp] theorem setOff_idig (v : Option Word32) : (s.setOff v).idig = s.idig := rfl
@[simp] theorem setOff_h (v : Option Word32) : (s.setOff v).h = s.h := rfl
@[simp] theorem setOff_hs (v : Option Word32) : (s.setOff v).hs = s.hs := rfl
@[simp] theorem setOff_ctr (v : Option Word32) : (s.setOff v).ctr = s.ctr := rfl
@[simp] theorem setOff_off (v : Option Word32) : (s.setOff v).off = v := rfl
@[simp] theorem setOff_keyMem (v : Option Word32) : (s.setOff v).keyMem = s.keyMem := rfl
@[simp] theorem setOff_dataMem (v : Option Word32) : (s.setOff v).dataMem = s.dataMem := rfl
@[simp] theorem setOff_dstMem (v : Option Word32) : (s.setOff v).dstMem = s.dstMem := rfl
@[simp] theorem setOff_inputs (v : Option Word32) : (s.setOff v).inputs = s.inputs := rfl
@[simp] theorem setOff_rdData (v : Option Word32) : (s.setOff v).rdData = s.rdData := rfl
@[simp] theorem setOff_portDigest (v : Option Word32) : (s.setOff v).portDigest = s.portDigest := rfl

/-! setDst -/

@[simp] theorem setDst_busy (v : Memory) : (s.setDst v).busy = s.busy := rfl
@[simp] theorem setDst_done (v : Memory) : (s.setDst v).done = s.done := rfl
@[simp] theorem setDst_fault (v : Memory) : (s.setDst v).fault = s.fault := rfl
@[simp] theorem setDst_faultCode (v : Memory) : (s.setDst v).faultCode = s.faultCode := rfl
@[simp] theorem setDst_keyLen (v : Memory) : (s.setDst v).keyLen = s.keyLen := rfl
@[simp] theorem setDst_dataLen (v : Memory) : (s.setDst v).dataLen = s.dataLen := rfl
@[simp] theorem setDst_keyCap (v : Memory) : (s.setDst v).keyCap = s.keyCap := rfl
@[simp] theorem setDst_dataCap (v : Memory) : (s.setDst v).dataCap = s.dataCap := rfl
@[simp] theorem setDst_dstCap (v : Memory) : (s.setDst v).dstCap = s.dstCap := rfl
@[simp] theorem setDst_ph (v : Memory) : (s.setDst v).ph = s.ph := rfl
@[simp] theorem setDst_keyblk (v : Memory) : (s.setDst v).keyblk = s.keyblk := rfl
@[simp] theorem setDst_ipad (v : Memory) : (s.setDst v).ipad = s.ipad := rfl
@[simp] theorem setDst_opad (v : Memory) : (s.setDst v).opad = s.opad := rfl
@[simp] theorem setDst_idig (v : Memory) : (s.setDst v).idig = s.idig := rfl
@[simp] theorem setDst_h (v : Memory) : (s.setDst v).h = s.h := rfl
@[simp] theorem setDst_hs (v : Memory) : (s.setDst v).hs = s.hs := rfl
@[simp] theorem setDst_ctr (v : Memory) : (s.setDst v).ctr = s.ctr := rfl
@[simp] theorem setDst_off (v : Memory) : (s.setDst v).off = s.off := rfl
@[simp] theorem setDst_keyMem (v : Memory) : (s.setDst v).keyMem = s.keyMem := rfl
@[simp] theorem setDst_dataMem (v : Memory) : (s.setDst v).dataMem = s.dataMem := rfl
@[simp] theorem setDst_dstMem (v : Memory) : (s.setDst v).dstMem = v := rfl
@[simp] theorem setDst_inputs (v : Memory) : (s.setDst v).inputs = s.inputs := rfl
@[simp] theorem setDst_rdData (v : Memory) : (s.setDst v).rdData = s.rdData := rfl
@[simp] theorem setDst_portDigest (v : Memory) : (s.setDst v).portDigest = s.portDigest := rfl

/-! setInputs -/

@[simp] theorem setInputs_busy (v : List Input) : (s.setInputs v).busy = s.busy := rfl
@[simp] theorem setInputs_done (v : List Input) : (s.setInputs v).done = s.done := rfl
@[simp] theorem setInputs_fault (v : List Input) : (s.setInputs v).fault = s.fault := rfl
@[simp] theorem setInputs_faultCode (v : List Input) : (s.setInputs v).faultCode = s.faultCode := rfl
@[simp] theorem setInputs_keyLen (v : List Input) : (s.setInputs v).keyLen = s.keyLen := rfl
@[simp] theorem setInputs_dataLen (v : List Input) : (s.setInputs v).dataLen = s.dataLen := rfl
@[simp] theorem setInputs_keyCap (v : List Input) : (s.setInputs v).keyCap = s.keyCap := rfl
@[simp] theorem setInputs_dataCap (v : List Input) : (s.setInputs v).dataCap = s.dataCap := rfl
@[simp] theorem setInputs_dstCap (v : List Input) : (s.setInputs v).dstCap = s.dstCap := rfl
@[simp] theorem setInputs_ph (v : List Input) : (s.setInputs v).ph = s.ph := rfl
@[simp] theorem setInputs_keyblk (v : List Input) : (s.setInputs v).keyblk = s.keyblk := rfl
@[simp] theorem setInputs_ipad (v : List Input) : (s.setInputs v).ipad = s.ipad := rfl
@[simp] theorem setInputs_opad (v : List Input) : (s.setInputs v).opad = s.opad := rfl
@[simp] theorem setInputs_idig (v : List Input) : (s.setInputs v).idig = s.idig := rfl
@[simp] theorem setInputs_h (v : List Input) : (s.setInputs v).h = s.h := rfl
@[simp] theorem setInputs_hs (v : List Input) : (s.setInputs v).hs = s.hs := rfl
@[simp] theorem setInputs_ctr (v : List Input) : (s.setInputs v).ctr = s.ctr := rfl
@[simp] theorem setInputs_off (v : List Input) : (s.setInputs v).off = s.off := rfl
@[simp] theorem setInputs_keyMem (v : List Input) : (s.setInputs v).keyMem = s.keyMem := rfl
@[simp] theorem setInputs_dataMem (v : List Input) : (s.setInputs v).dataMem = s.dataMem := rfl
@[simp] theorem setInputs_dstMem (v : List Input) : (s.setInputs v).dstMem = s.dstMem := rfl
@[simp] theorem setInputs_inputs (v : List Input) : (s.setInputs v).inputs = v := rfl
@[simp] theorem setInputs_rdData (v : List Input) : (s.setInputs v).rdData = s.rdData := rfl
@[simp] theorem setInputs_portDigest (v : List Input) : (s.setInputs v).portDigest = s.portDigest := rfl

/-! setRdData -/

@[simp] theorem setRdData_busy (v : Option Word32) : (s.setRdData v).busy = s.busy := rfl
@[simp] theorem setRdData_done (v : Option Word32) : (s.setRdData v).done = s.done := rfl
@[simp] theorem setRdData_fault (v : Option Word32) : (s.setRdData v).fault = s.fault := rfl
@[simp] theorem setRdData_faultCode (v : Option Word32) : (s.setRdData v).faultCode = s.faultCode := rfl
@[simp] theorem setRdData_keyLen (v : Option Word32) : (s.setRdData v).keyLen = s.keyLen := rfl
@[simp] theorem setRdData_dataLen (v : Option Word32) : (s.setRdData v).dataLen = s.dataLen := rfl
@[simp] theorem setRdData_keyCap (v : Option Word32) : (s.setRdData v).keyCap = s.keyCap := rfl
@[simp] theorem setRdData_dataCap (v : Option Word32) : (s.setRdData v).dataCap = s.dataCap := rfl
@[simp] theorem setRdData_dstCap (v : Option Word32) : (s.setRdData v).dstCap = s.dstCap := rfl
@[simp] theorem setRdData_ph (v : Option Word32) : (s.setRdData v).ph = s.ph := rfl
@[simp] theorem setRdData_keyblk (v : Option Word32) : (s.setRdData v).keyblk = s.keyblk := rfl
@[simp] theorem setRdData_ipad (v : Option Word32) : (s.setRdData v).ipad = s.ipad := rfl
@[simp] theorem setRdData_opad (v : Option Word32) : (s.setRdData v).opad = s.opad := rfl
@[simp] theorem setRdData_idig (v : Option Word32) : (s.setRdData v).idig = s.idig := rfl
@[simp] theorem setRdData_h (v : Option Word32) : (s.setRdData v).h = s.h := rfl
@[simp] theorem setRdData_hs (v : Option Word32) : (s.setRdData v).hs = s.hs := rfl
@[simp] theorem setRdData_ctr (v : Option Word32) : (s.setRdData v).ctr = s.ctr := rfl
@[simp] theorem setRdData_off (v : Option Word32) : (s.setRdData v).off = s.off := rfl
@[simp] theorem setRdData_keyMem (v : Option Word32) : (s.setRdData v).keyMem = s.keyMem := rfl
@[simp] theorem setRdData_dataMem (v : Option Word32) : (s.setRdData v).dataMem = s.dataMem := rfl
@[simp] theorem setRdData_dstMem (v : Option Word32) : (s.setRdData v).dstMem = s.dstMem := rfl
@[simp] theorem setRdData_inputs (v : Option Word32) : (s.setRdData v).inputs = s.inputs := rfl
@[simp] theorem setRdData_rdData (v : Option Word32) : (s.setRdData v).rdData = v := rfl
@[simp] theorem setRdData_portDigest (v : Option Word32) : (s.setRdData v).portDigest = s.portDigest := rfl

/-! setPortDigest -/

@[simp] theorem setPortDigest_busy (v : Option (BitVec 512)) : (s.setPortDigest v).busy = s.busy := rfl
@[simp] theorem setPortDigest_done (v : Option (BitVec 512)) : (s.setPortDigest v).done = s.done := rfl
@[simp] theorem setPortDigest_fault (v : Option (BitVec 512)) : (s.setPortDigest v).fault = s.fault := rfl
@[simp] theorem setPortDigest_faultCode (v : Option (BitVec 512)) : (s.setPortDigest v).faultCode = s.faultCode := rfl
@[simp] theorem setPortDigest_keyLen (v : Option (BitVec 512)) : (s.setPortDigest v).keyLen = s.keyLen := rfl
@[simp] theorem setPortDigest_dataLen (v : Option (BitVec 512)) : (s.setPortDigest v).dataLen = s.dataLen := rfl
@[simp] theorem setPortDigest_keyCap (v : Option (BitVec 512)) : (s.setPortDigest v).keyCap = s.keyCap := rfl
@[simp] theorem setPortDigest_dataCap (v : Option (BitVec 512)) : (s.setPortDigest v).dataCap = s.dataCap := rfl
@[simp] theorem setPortDigest_dstCap (v : Option (BitVec 512)) : (s.setPortDigest v).dstCap = s.dstCap := rfl
@[simp] theorem setPortDigest_ph (v : Option (BitVec 512)) : (s.setPortDigest v).ph = s.ph := rfl
@[simp] theorem setPortDigest_keyblk (v : Option (BitVec 512)) : (s.setPortDigest v).keyblk = s.keyblk := rfl
@[simp] theorem setPortDigest_ipad (v : Option (BitVec 512)) : (s.setPortDigest v).ipad = s.ipad := rfl
@[simp] theorem setPortDigest_opad (v : Option (BitVec 512)) : (s.setPortDigest v).opad = s.opad := rfl
@[simp] theorem setPortDigest_idig (v : Option (BitVec 512)) : (s.setPortDigest v).idig = s.idig := rfl
@[simp] theorem setPortDigest_h (v : Option (BitVec 512)) : (s.setPortDigest v).h = s.h := rfl
@[simp] theorem setPortDigest_hs (v : Option (BitVec 512)) : (s.setPortDigest v).hs = s.hs := rfl
@[simp] theorem setPortDigest_ctr (v : Option (BitVec 512)) : (s.setPortDigest v).ctr = s.ctr := rfl
@[simp] theorem setPortDigest_off (v : Option (BitVec 512)) : (s.setPortDigest v).off = s.off := rfl
@[simp] theorem setPortDigest_keyMem (v : Option (BitVec 512)) : (s.setPortDigest v).keyMem = s.keyMem := rfl
@[simp] theorem setPortDigest_dataMem (v : Option (BitVec 512)) : (s.setPortDigest v).dataMem = s.dataMem := rfl
@[simp] theorem setPortDigest_dstMem (v : Option (BitVec 512)) : (s.setPortDigest v).dstMem = s.dstMem := rfl
@[simp] theorem setPortDigest_inputs (v : Option (BitVec 512)) : (s.setPortDigest v).inputs = s.inputs := rfl
@[simp] theorem setPortDigest_rdData (v : Option (BitVec 512)) : (s.setPortDigest v).rdData = s.rdData := rfl
@[simp] theorem setPortDigest_portDigest (v : Option (BitVec 512)) : (s.setPortDigest v).portDigest = v := rfl

/-! setSpace: the attached space's capacity and bytes, and nothing else -/

@[simp] theorem setSpace_busy (sp : Space) (c : Word32) (m : Memory) :
    (s.setSpace sp c m).busy = s.busy := by cases sp <;> rfl
@[simp] theorem setSpace_done (sp : Space) (c : Word32) (m : Memory) :
    (s.setSpace sp c m).done = s.done := by cases sp <;> rfl
@[simp] theorem setSpace_fault (sp : Space) (c : Word32) (m : Memory) :
    (s.setSpace sp c m).fault = s.fault := by cases sp <;> rfl
@[simp] theorem setSpace_faultCode (sp : Space) (c : Word32) (m : Memory) :
    (s.setSpace sp c m).faultCode = s.faultCode := by cases sp <;> rfl
@[simp] theorem setSpace_keyLen (sp : Space) (c : Word32) (m : Memory) :
    (s.setSpace sp c m).keyLen = s.keyLen := by cases sp <;> rfl
@[simp] theorem setSpace_dataLen (sp : Space) (c : Word32) (m : Memory) :
    (s.setSpace sp c m).dataLen = s.dataLen := by cases sp <;> rfl
@[simp] theorem setSpace_ph (sp : Space) (c : Word32) (m : Memory) :
    (s.setSpace sp c m).ph = s.ph := by cases sp <;> rfl
@[simp] theorem setSpace_keyblk (sp : Space) (c : Word32) (m : Memory) :
    (s.setSpace sp c m).keyblk = s.keyblk := by cases sp <;> rfl
@[simp] theorem setSpace_ipad (sp : Space) (c : Word32) (m : Memory) :
    (s.setSpace sp c m).ipad = s.ipad := by cases sp <;> rfl
@[simp] theorem setSpace_opad (sp : Space) (c : Word32) (m : Memory) :
    (s.setSpace sp c m).opad = s.opad := by cases sp <;> rfl
@[simp] theorem setSpace_idig (sp : Space) (c : Word32) (m : Memory) :
    (s.setSpace sp c m).idig = s.idig := by cases sp <;> rfl
@[simp] theorem setSpace_h (sp : Space) (c : Word32) (m : Memory) :
    (s.setSpace sp c m).h = s.h := by cases sp <;> rfl
@[simp] theorem setSpace_hs (sp : Space) (c : Word32) (m : Memory) :
    (s.setSpace sp c m).hs = s.hs := by cases sp <;> rfl
@[simp] theorem setSpace_ctr (sp : Space) (c : Word32) (m : Memory) :
    (s.setSpace sp c m).ctr = s.ctr := by cases sp <;> rfl
@[simp] theorem setSpace_off (sp : Space) (c : Word32) (m : Memory) :
    (s.setSpace sp c m).off = s.off := by cases sp <;> rfl
@[simp] theorem setSpace_inputs (sp : Space) (c : Word32) (m : Memory) :
    (s.setSpace sp c m).inputs = s.inputs := by cases sp <;> rfl
@[simp] theorem setSpace_rdData (sp : Space) (c : Word32) (m : Memory) :
    (s.setSpace sp c m).rdData = s.rdData := by cases sp <;> rfl
@[simp] theorem setSpace_portDigest (sp : Space) (c : Word32) (m : Memory) :
    (s.setSpace sp c m).portDigest = s.portDigest := by cases sp <;> rfl

@[simp] theorem setSpace_cap_same (sp : Space) (c : Word32) (m : Memory) :
    (s.setSpace sp c m).cap sp = c := by cases sp <;> rfl
@[simp] theorem setSpace_mem_same (sp : Space) (c : Word32) (m : Memory) :
    (s.setSpace sp c m).mem sp = m := by cases sp <;> rfl
theorem setSpace_cap_other {sp sp' : Space} (hne : sp' ≠ sp) (c : Word32) (m : Memory) :
    (s.setSpace sp c m).cap sp' = s.cap sp' := by cases sp <;> cases sp' <;> first | rfl | exact absurd rfl hne
theorem setSpace_mem_other {sp sp' : Space} (hne : sp' ≠ sp) (c : Word32) (m : Memory) :
    (s.setSpace sp c m).mem sp' = s.mem sp' := by cases sp <;> cases sp' <;> first | rfl | exact absurd rfl hne

end

end Sys2Proof.Machine
end

