-- ==== Sys2Proof/Laws/Ops.lean ====
section
/-! SUPPORT. One lemma per shared operation, saying once everything it can do. Proofs cite these and do not unfold the
operations. -/

namespace Sys2Proof.Machine

variable {σ : Type}

/-! ### Sequencing -/

theorem bind_eq_ok {α β : Type} {x : Except FaultCause α} {f : α → Except FaultCause β} {r : β} :
    (x >>= f) = .ok r ↔ ∃ a, x = .ok a ∧ f a = .ok r := by
  cases x <;> simp [bind, Except.bind]

theorem bind_eq_error {α β : Type} {x : Except FaultCause α} {f : α → Except FaultCause β} {c : FaultCause} :
    (x >>= f) = .error c ↔ x = .error c ∨ ∃ a, x = .ok a ∧ f a = .error c := by
  cases x <;> simp [bind, Except.bind]

@[simp] theorem ok_bind {α β : Type} (a : α) (f : α → Except FaultCause β) :
    ((Except.ok a : Except FaultCause α) >>= f) = f a := rfl

@[simp] theorem error_bind {α β : Type} (c : FaultCause) (f : α → Except FaultCause β) :
    ((Except.error c : Except FaultCause α) >>= f) = .error c := rfl

/-- A step that completes takes its new state. -/
@[simp] theorem commit_ok (s t : State.Of σ) : commit s (.ok t) = .next t := rfl

/-- A step that faults takes the fault entry of the state before it (60_exceptions R205). -/
@[simp] theorem commit_error (s : State.Of σ) (c : FaultCause) : commit s (.error c) = .next (raiseFault c s) := rfl

/-- A step of the sequencer always answers a next state. -/
theorem commit_next (s : State.Of σ) (r : Except FaultCause (State.Of σ)) : ∃ t, commit s r = .next t := by
  cases r <;> simp

/-! ### Registers -/

theorem need_eq_ok {α : Type} {r : Option α} {v : α} : need r = .ok v ↔ r = some v := by
  cases r <;> simp [need]

theorem need_eq_error {α : Type} {r : Option α} {c : FaultCause} :
    need r = .error c ↔ r = none ∧ c = .engineAssert := by
  cases r with
  | none => exact ⟨fun e => ⟨rfl, (Except.error.inj e).symm⟩, fun e => by rw [e.2]; rfl⟩
  | some v => simp [need]

@[simp] theorem need_some {α : Type} (v : α) : need (some v) = .ok v := rfl

@[simp] theorem need_none {α : Type} : need (none : Option α) = .error .engineAssert := rfl

/-! ### Memory -/

/-- A guarded operation completes when its guard holds and its body completes. -/
theorem guard_eq_ok {α : Type} {P : Prop} [Decidable P] {x : Except FaultCause α} {r : α} :
    (if P then x else .error .engineAssert) = .ok r ↔ P ∧ x = .ok r := by
  by_cases h : P <;> simp [h]

/-- It faults when its guard fails, by ENGINE_ASSERT, or its body faults. -/
theorem guard_eq_error {α : Type} {P : Prop} [Decidable P] {x : Except FaultCause α} {c : FaultCause} :
    (if P then x else .error .engineAssert) = .error c ↔ P ∧ x = .error c ∨ ¬ P ∧ c = .engineAssert := by
  by_cases h : P
  · simp [h]
  · rw [if_neg h]
    exact ⟨fun e => .inr ⟨h, (Except.error.inj e).symm⟩, fun e => by rw [(e.resolve_left fun g => h g.1).2]⟩

theorem memRead_eq_ok {sp : Space} {off n : Nat} {s : State.Of σ} {v : Bytes n} :
    memRead sp off n s = .ok v ↔
      (n ≤ 128 ∧ off + n ≤ (s.cap sp).toNat) ∧ v.toList = Memory.readBytes (s.mem sp) off n := by
  rw [memRead, guard_eq_ok, Except.ok.injEq]
  exact and_congr_right' ⟨fun e => by rw [← e], fun e => Bytes.ext e.symm⟩

theorem memRead_eq_error {sp : Space} {off n : Nat} {s : State.Of σ} {c : FaultCause} :
    memRead sp off n s = .error c ↔ ¬ (n ≤ 128 ∧ off + n ≤ (s.cap sp).toNat) ∧ c = .engineAssert := by
  rw [memRead, guard_eq_error]; simp

theorem memWrite_eq_ok {off : Nat} {v : List Byte} {s t : State.Of σ} :
    memWrite off v s = .ok t ↔
      off + v.length ≤ s.dstCap.toNat ∧ t = s.setDst (Memory.writeBytes s.dstMem off v) := by
  rw [memWrite, guard_eq_ok, Except.ok.injEq, eq_comm (a := t)]

theorem memWrite_eq_error {off : Nat} {v : List Byte} {s : State.Of σ} {c : FaultCause} :
    memWrite off v s = .error c ↔ ¬ off + v.length ≤ s.dstCap.toNat ∧ c = .engineAssert := by
  rw [memWrite, guard_eq_error]; simp

/-! ### The engine port (42_hash_engine_port R116) -/

theorem portInit_eq_ok {E : Engine σ} {len : Byte} {s t : State.Of σ} :
    portInit E len s = .ok t ↔ len = 0 ∧ t = (s.setHash (some E.init) .absorbing).setCtr (some 0) := by
  rw [portInit, guard_eq_ok, Except.ok.injEq, eq_comm (a := t)]

theorem portInit_eq_error {E : Engine σ} {len : Byte} {s : State.Of σ} {c : FaultCause} :
    portInit E len s = .error c ↔ len ≠ 0 ∧ c = .engineAssert := by
  rw [portInit, guard_eq_error]; simp

/-- Reading `H` and `CTR` and going on: the common body of the commands that take a state in. -/
theorem needHash_eq_ok {α : Type} {s : State.Of σ} {f : σ → U128 → α} {r : α} :
    (do
      let h ← need s.h
      let c ← need s.ctr
      .ok (f h c) : Except FaultCause α) = .ok r ↔ ∃ h c, s.h = some h ∧ s.ctr = some c ∧ r = f h c := by
  simp only [bind_eq_ok, need_eq_ok, Except.ok.injEq, eq_comm (a := r)]
  exact ⟨fun ⟨h, hh, c, hc, e⟩ => ⟨h, c, hh, hc, e⟩, fun ⟨h, c, hh, hc, e⟩ => ⟨h, hh, c, hc, e⟩⟩

theorem needHash_eq_error {α : Type} {s : State.Of σ} {f : σ → U128 → α} {c : FaultCause} :
    (do
      let h ← need s.h
      let c ← need s.ctr
      .ok (f h c) : Except FaultCause α) = .error c ↔ (s.h = none ∨ s.ctr = none) ∧ c = .engineAssert := by
  simp only [bind_eq_error, need_eq_error, need_eq_ok, reduceCtorEq, and_false, exists_false, or_false]
  cases s.h <;> simp

theorem portUpdateMulti_eq_ok {E : Engine σ} {len : Byte} {blk : Block} {s t : State.Of σ} :
    portUpdateMulti E len blk s = .ok t ↔
      (s.hs = .absorbing ∧ len = 128) ∧ ∃ h c, s.h = some h ∧ s.ctr = some c ∧
        t = (s.setHash (some (E.updateMulti h c blk).1) .absorbing).setCtr (some (E.updateMulti h c blk).2) := by
  rw [portUpdateMulti, guard_eq_ok, needHash_eq_ok]

theorem portUpdateMulti_eq_error {E : Engine σ} {len : Byte} {blk : Block} {s : State.Of σ} {c : FaultCause} :
    portUpdateMulti E len blk s = .error c ↔
      (¬ (s.hs = .absorbing ∧ len = 128) ∨ s.h = none ∨ s.ctr = none) ∧ c = .engineAssert := by
  rw [portUpdateMulti, guard_eq_error, needHash_eq_error]; tauto

theorem portUpdateLast_eq_ok {E : Engine σ} {len : Byte} {chunk : List Byte} {s t : State.Of σ} :
    portUpdateLast E len chunk s = .ok t ↔
      (s.hs = .absorbing ∧ len.toNat ≤ 128) ∧ ∃ h c, s.h = some h ∧ s.ctr = some c ∧
        t = (s.setHash (some (E.updateLast h c chunk).1) .final).setCtr (some (E.updateLast h c chunk).2) := by
  rw [portUpdateLast, guard_eq_ok, needHash_eq_ok]

theorem portUpdateLast_eq_error {E : Engine σ} {len : Byte} {chunk : List Byte} {s : State.Of σ} {c : FaultCause} :
    portUpdateLast E len chunk s = .error c ↔
      (¬ (s.hs = .absorbing ∧ len.toNat ≤ 128) ∨ s.h = none ∨ s.ctr = none) ∧ c = .engineAssert := by
  rw [portUpdateLast, guard_eq_error, needHash_eq_error]; tauto

theorem portFinish_eq_ok {E : Engine σ} {len : Byte} {s : State.Of σ} {r : Digest × State.Of σ} :
    portFinish E len s = .ok r ↔
      (s.hs = .final ∧ len = 0) ∧ ∃ h c, s.h = some h ∧ s.ctr = some c ∧
        r = (E.finish h c, s.setHash none .empty) := by
  rw [portFinish, guard_eq_ok, needHash_eq_ok]

theorem portFinish_eq_error {E : Engine σ} {len : Byte} {s : State.Of σ} {c : FaultCause} :
    portFinish E len s = .error c ↔
      (¬ (s.hs = .final ∧ len = 0) ∨ s.h = none ∨ s.ctr = none) ∧ c = .engineAssert := by
  rw [portFinish, guard_eq_error, needHash_eq_error]; tauto

/-! ### The sequencer -/

/-- exec is the meaning of every instruction with the engine at `engine`. -/
theorem exec_eq_execFor (i : Instr) (s : State) : exec i s = execFor engine i s := by
  cases i <;> rfl

/-- step is the step of the machine of `engine`. -/
theorem step_eq_stepFor : step = stepFor engine :=
  congrArg stepWith (funext fun i => funext fun s => exec_eq_execFor i s)

/-- The meaning of a phase's row is the sequencer's step at that phase. -/
theorem execFor_phase (E : Engine σ) (p : Phase) (s : State.Of σ) :
    execFor E p.instr s = commit s (microOp E p s) := by
  cases p <;> rfl

theorem exec_phase (p : Phase) (s : State) : exec p.instr s = commit s (microOp engine p s) := by
  rw [exec_eq_execFor, execFor_phase]

@[simp] theorem seqRun_zero (E : Engine σ) (s : State.Of σ) : seqRun E 0 s = .ok s := rfl

theorem seqRun_succ_ok {E : Engine σ} {n : Nat} {s t : State.Of σ} (h : microOp E s.ph s = .ok t) :
    seqRun E (n + 1) s = seqRun E n t := by rw [seqRun, h]

/-- A run of `m + n` steps is a run of `m` and then one of `n`. -/
theorem seqRun_add {E : Engine σ} {m n : Nat} {s t : State.Of σ} (h : seqRun E m s = .ok t) :
    seqRun E (m + n) s = seqRun E n t := by
  induction m generalizing s with
  | zero => rw [Nat.zero_add]; cases h; rfl
  | succ m ih =>
    rw [Nat.succ_add, seqRun]
    rw [seqRun] at h
    cases e : microOp E s.ph s with
    | ok u => rw [e] at h; exact ih h
    | error c => rw [e] at h; cases h

end Sys2Proof.Machine
end

