-- ==== Sys2Proof/Laws/MicroOps.lean ====
section
/-! SUPPORT. What each micro-operation that can fault does when it completes: one inversion lemma each, for every
engine. Invariants and frames follow from these without unfolding a micro-operation. -/

namespace Sys2Proof.Machine

variable {σ : Type}

theorem knCopy_eq_ok {s t : State.Of σ} : knCopy s = .ok t ↔
    ∃ kb, s.keyblk = some kb ∧ s.keyLen.toNat ≤ 128 ∧ s.keyLen.toNat ≤ s.keyCap.toNat ∧
      t = (s.setKeyblk (some (overwrite kb (Memory.readBytes s.keyMem 0 s.keyLen.toNat)))).setPh .pdIpad := by
  simp only [knCopy, bind_eq_ok, need_eq_ok, memRead_eq_ok, Except.ok.injEq]
  constructor
  · rintro ⟨kb, hk, v, ⟨⟨h1, h2⟩, h3⟩, rfl⟩
    exact ⟨kb, hk, h1, by simpa [State.Of.cap] using h2, by rw [h3]; rfl⟩
  · rintro ⟨kb, hk, h1, h2, rfl⟩
    exact ⟨kb, hk, ⟨_, Memory.length_readBytes s.keyMem 0 _⟩, ⟨⟨h1, by simpa [State.Of.cap] using h2⟩, rfl⟩, rfl⟩

theorem khInit_eq_ok {E : Engine σ} {s t : State.Of σ} : khInit E s = .ok t ↔
    t = (((s.setHash (some E.init) .absorbing).setCtr (some 0)).setOff (some 0)).setPh .khMulti := by
  simp only [khInit, bind_eq_ok, portInit_eq_ok, Except.ok.injEq]
  exact ⟨by rintro ⟨_, ⟨_, rfl⟩, rfl⟩; rfl, by rintro rfl; exact ⟨_, ⟨trivial, rfl⟩, rfl⟩⟩

/-- The absorbing micro-operations of one whole block read from a space, KH_MULTI and IN_MSG_MULTI, in one form. -/
theorem absorbBlock_eq_ok {E : Engine σ} {sp : Space} {s t : State.Of σ} {next : Word32 → Phase} :
    (do
      let off ← need s.off
      let blk ← memRead sp off.toNat 128 s
      let u ← portUpdateMulti E 128 blk s
      .ok ((u.setOff (some (off + 128))).setPh (next (off + 128))) : Except FaultCause (State.Of σ)) = .ok t ↔
    ∃ off h c blk, s.off = some off ∧ s.h = some h ∧ s.ctr = some c ∧ s.hs = .absorbing ∧
      off.toNat + 128 ≤ (s.cap sp).toNat ∧ blk.toList = Memory.readBytes (s.mem sp) off.toNat 128 ∧
      t = ((((s.setHash (some (E.updateMulti h c blk).1) .absorbing).setCtr
        (some (E.updateMulti h c blk).2)).setOff (some (off + 128))).setPh (next (off + 128))) := by
  simp only [bind_eq_ok, need_eq_ok, memRead_eq_ok, portUpdateMulti_eq_ok, Except.ok.injEq]
  constructor
  · rintro ⟨off, ho, blk, ⟨⟨_, h2⟩, h3⟩, u, ⟨⟨h4, _⟩, h, c, hh, hc, rfl⟩, rfl⟩
    exact ⟨off, h, c, blk, ho, hh, hc, h4, h2, h3, rfl⟩
  · rintro ⟨off, h, c, blk, ho, hh, hc, h4, h2, h3, rfl⟩
    exact ⟨off, ho, blk, ⟨⟨by omega, h2⟩, h3⟩, _, ⟨⟨h4, trivial⟩, h, c, hh, hc, rfl⟩, rfl⟩

/-- The absorbing micro-operations of a last chunk read from a space, KH_LAST and IN_MSG_LAST, in one form. -/
theorem absorbLast_eq_ok {E : Engine σ} {sp : Space} {len : Word32} {s t : State.Of σ} {next : Phase} :
    (do
      let off ← need s.off
      let r := len - off
      let chunk ← memRead sp off.toNat r.toNat s
      let u ← portUpdateLast E (r.setWidth 8) chunk.toList s
      .ok ((u.setOff (some (off + r))).setPh next) : Except FaultCause (State.Of σ)) = .ok t ↔
    ∃ off h c, s.off = some off ∧ s.h = some h ∧ s.ctr = some c ∧ s.hs = .absorbing ∧
      (len - off).toNat ≤ 128 ∧ off.toNat + (len - off).toNat ≤ (s.cap sp).toNat ∧
      t = ((((s.setHash
        (some (E.updateLast h c (Memory.readBytes (s.mem sp) off.toNat (len - off).toNat)).1) .final).setCtr
        (some (E.updateLast h c (Memory.readBytes (s.mem sp) off.toNat (len - off).toNat)).2)).setOff
        (some (off + (len - off)))).setPh next) := by
  simp only [bind_eq_ok, need_eq_ok, memRead_eq_ok, portUpdateLast_eq_ok, Except.ok.injEq]
  constructor
  · rintro ⟨off, ho, v, ⟨⟨h1, h2⟩, h3⟩, u, ⟨⟨h4, _⟩, h, c, hh, hc, rfl⟩, rfl⟩
    exact ⟨off, h, c, ho, hh, hc, h4, h1, h2, by rw [h3]⟩
  · rintro ⟨off, h, c, ho, hh, hc, h4, h1, h2, rfl⟩
    refine ⟨off, ho, ⟨_, Memory.length_readBytes (s.mem sp) _ _⟩, ⟨⟨h1, h2⟩, rfl⟩, _,
      ⟨⟨h4, ?_⟩, h, c, hh, hc, rfl⟩, rfl⟩
    rw [BitVec.toNat_setWidth]; omega

theorem khFinish_eq_ok {E : Engine σ} {s t : State.Of σ} : khFinish E s = .ok t ↔
    ∃ kb h c, s.keyblk = some kb ∧ s.h = some h ∧ s.ctr = some c ∧ s.hs = .final ∧
      t = ((s.setHash none .empty).setKeyblk (some (overwrite kb (E.finish h c).toList))).setPh .pdIpad := by
  simp only [khFinish, bind_eq_ok, need_eq_ok, portFinish_eq_ok, Except.ok.injEq]
  constructor
  · rintro ⟨kb, hk, r, ⟨⟨h1, _⟩, h, c, hh, hc, rfl⟩, rfl⟩; exact ⟨kb, h, c, hk, hh, hc, h1, rfl⟩
  · rintro ⟨kb, h, c, hk, hh, hc, h1, rfl⟩; exact ⟨kb, hk, _, ⟨⟨h1, trivial⟩, h, c, hh, hc, rfl⟩, rfl⟩

theorem pdIpad_eq_ok {s t : State.Of σ} : pdIpad s = .ok t ↔
    ∃ kb, s.keyblk = some kb ∧ t = (s.setIpad (some (xorPad Config.ipadByte kb))).setPh .pdOpad := by
  simp only [pdIpad, bind_eq_ok, need_eq_ok, Except.ok.injEq, eq_comm (a := t)]

theorem pdOpad_eq_ok {s t : State.Of σ} : pdOpad s = .ok t ↔
    ∃ kb, s.keyblk = some kb ∧
      t = ((s.setOpad (some (xorPad Config.opadByte kb))).setKeyblk none).setPh .inInit := by
  simp only [pdOpad, bind_eq_ok, need_eq_ok, Except.ok.injEq, eq_comm (a := t)]

theorem inInit_eq_ok {E : Engine σ} {s t : State.Of σ} : inInit E s = .ok t ↔
    t = (((s.setHash (some E.init) .absorbing).setCtr (some 0)).setOff (some 0)).setPh
      (if messageIsEmpty s.dataLen then .inPadLast else .inPadMulti) := by
  simp only [inInit, bind_eq_ok, portInit_eq_ok, Except.ok.injEq]
  exact ⟨by rintro ⟨_, ⟨_, rfl⟩, rfl⟩; rfl, by rintro rfl; exact ⟨_, ⟨trivial, rfl⟩, rfl⟩⟩

theorem inPadLast_eq_ok {E : Engine σ} {s t : State.Of σ} : inPadLast E s = .ok t ↔
    ∃ pad h c, s.ipad = some pad ∧ s.h = some h ∧ s.ctr = some c ∧ s.hs = .absorbing ∧
      t = ((s.setHash (some (E.updateLast h c pad.toList).1) .final).setCtr
        (some (E.updateLast h c pad.toList).2)).setPh .inFinish := by
  simp only [inPadLast, bind_eq_ok, need_eq_ok, portUpdateLast_eq_ok, Except.ok.injEq]
  constructor
  · rintro ⟨pad, hp, u, ⟨⟨h1, _⟩, h, c, hh, hc, rfl⟩, rfl⟩; exact ⟨pad, h, c, hp, hh, hc, h1, rfl⟩
  · rintro ⟨pad, h, c, hp, hh, hc, h1, rfl⟩
    exact ⟨pad, hp, _, ⟨⟨h1, by decide⟩, h, c, hh, hc, rfl⟩, rfl⟩

theorem inPadMulti_eq_ok {E : Engine σ} {s t : State.Of σ} : inPadMulti E s = .ok t ↔
    ∃ pad off h c, s.ipad = some pad ∧ s.off = some off ∧ s.h = some h ∧ s.ctr = some c ∧ s.hs = .absorbing ∧
      t = ((s.setHash (some (E.updateMulti h c pad).1) .absorbing).setCtr (some (E.updateMulti h c pad).2)).setPh
        (if moreThanBlock s.dataLen off then .inMsgMulti else .inMsgLast) := by
  simp only [inPadMulti, bind_eq_ok, need_eq_ok, portUpdateMulti_eq_ok, Except.ok.injEq]
  constructor
  · rintro ⟨pad, hp, off, ho, u, ⟨⟨h1, _⟩, h, c, hh, hc, rfl⟩, rfl⟩
    exact ⟨pad, off, h, c, hp, ho, hh, hc, h1, rfl⟩
  · rintro ⟨pad, off, h, c, hp, ho, hh, hc, h1, rfl⟩
    exact ⟨pad, hp, off, ho, _, ⟨⟨h1, trivial⟩, h, c, hh, hc, rfl⟩, rfl⟩

theorem inFinish_eq_ok {E : Engine σ} {s t : State.Of σ} : inFinish E s = .ok t ↔
    ∃ h c, s.h = some h ∧ s.ctr = some c ∧ s.hs = .final ∧
      t = ((s.setHash none .empty).setIdig (some (E.finish h c))).setPh .outInit := by
  simp only [inFinish, bind_eq_ok, portFinish_eq_ok, Except.ok.injEq]
  constructor
  · rintro ⟨r, ⟨⟨h1, _⟩, h, c, hh, hc, rfl⟩, rfl⟩; exact ⟨h, c, hh, hc, h1, rfl⟩
  · rintro ⟨h, c, hh, hc, h1, rfl⟩; exact ⟨_, ⟨⟨h1, trivial⟩, h, c, hh, hc, rfl⟩, rfl⟩

theorem outInit_eq_ok {E : Engine σ} {s t : State.Of σ} : outInit E s = .ok t ↔
    t = (((s.setHash (some E.init) .absorbing).setCtr (some 0)).setOff (some 0)).setPh .outPadMulti := by
  simp only [outInit, bind_eq_ok, portInit_eq_ok, Except.ok.injEq]
  exact ⟨by rintro ⟨_, ⟨_, rfl⟩, rfl⟩; rfl, by rintro rfl; exact ⟨_, ⟨trivial, rfl⟩, rfl⟩⟩

theorem outPadMulti_eq_ok {E : Engine σ} {s t : State.Of σ} : outPadMulti E s = .ok t ↔
    ∃ pad h c, s.opad = some pad ∧ s.h = some h ∧ s.ctr = some c ∧ s.hs = .absorbing ∧
      t = ((s.setHash (some (E.updateMulti h c pad).1) .absorbing).setCtr
        (some (E.updateMulti h c pad).2)).setPh .outDigLast := by
  simp only [outPadMulti, bind_eq_ok, need_eq_ok, portUpdateMulti_eq_ok, Except.ok.injEq]
  constructor
  · rintro ⟨pad, hp, u, ⟨⟨h1, _⟩, h, c, hh, hc, rfl⟩, rfl⟩; exact ⟨pad, h, c, hp, hh, hc, h1, rfl⟩
  · rintro ⟨pad, h, c, hp, hh, hc, h1, rfl⟩
    exact ⟨pad, hp, _, ⟨⟨h1, trivial⟩, h, c, hh, hc, rfl⟩, rfl⟩

theorem outDigLast_eq_ok {E : Engine σ} {s t : State.Of σ} : outDigLast E s = .ok t ↔
    ∃ d h c, s.idig = some d ∧ s.h = some h ∧ s.ctr = some c ∧ s.hs = .absorbing ∧
      t = ((s.setHash (some (E.updateLast h c d.toList).1) .final).setCtr
        (some (E.updateLast h c d.toList).2)).setPh .outFinish := by
  simp only [outDigLast, bind_eq_ok, need_eq_ok, portUpdateLast_eq_ok, Except.ok.injEq]
  constructor
  · rintro ⟨d, hp, u, ⟨⟨h1, _⟩, h, c, hh, hc, rfl⟩, rfl⟩; exact ⟨d, h, c, hp, hh, hc, h1, rfl⟩
  · rintro ⟨d, h, c, hp, hh, hc, h1, rfl⟩
    exact ⟨d, hp, _, ⟨⟨h1, by decide⟩, h, c, hh, hc, rfl⟩, rfl⟩

theorem outFinish_eq_ok {E : Engine σ} {s t : State.Of σ} : outFinish E s = .ok t ↔
    ∃ h c, s.h = some h ∧ s.ctr = some c ∧ s.hs = .final ∧ 64 ≤ s.dstCap.toNat ∧
      t = ((s.setHash none .empty).setDst (Memory.writeBytes s.dstMem 0 (E.finish h c).toList)).setPh .retire := by
  simp only [outFinish, bind_eq_ok, portFinish_eq_ok, memWrite_eq_ok, Except.ok.injEq]
  constructor
  · rintro ⟨r, ⟨⟨h1, _⟩, h, c, hh, hc, rfl⟩, u, ⟨h2, rfl⟩, rfl⟩
    exact ⟨h, c, hh, hc, h1, by simpa using h2, rfl⟩
  · rintro ⟨h, c, hh, hc, h1, h2, rfl⟩
    exact ⟨_, ⟨⟨h1, trivial⟩, h, c, hh, hc, rfl⟩, _, ⟨by simpa using h2, rfl⟩, rfl⟩

/-- A fault of a micro-operation at or after KB_CLEAR is ENGINE_ASSERT (60_exceptions R200). -/
theorem microOp_error_cause {E : Engine σ} {p : Phase} {s : State.Of σ} {c : FaultCause}
    (h : microOp E p s = .error c) (hp : p ≠ .check) : c = .engineAssert := by
  cases p <;>
    simp only [microOp, rest, kbClear, knCopy, khInit, khMulti, khLast, khFinish, pdIpad, pdOpad, inInit,
      inPadLast, inPadMulti, inMsgMulti, inMsgLast, inFinish, outInit, outPadMulti, outDigLast, outFinish, retire,
      bind_eq_error, need_eq_error, memRead_eq_error, memWrite_eq_error, portInit_eq_error,
      portUpdateMulti_eq_error, portUpdateLast_eq_error, portFinish_eq_error, reduceCtorEq, and_false,
      exists_false, or_false] at h <;>
    first
      | exact absurd rfl hp
      | tauto

end Sys2Proof.Machine
end

