-- ==== Sys2Proof/Laws/Effects.lean ====
section
/-! SUPPORT. What an instruction does, said once for each of the three formats: `MicroOpEffect` lists, per phase, the
state a completed micro-operation leaves and what it needed; `HostEffect` and `PortEffect` do so for the host
transactions and the engine commands. Frames and invariants follow by cases on these. -/

namespace Sys2Proof.Machine

variable {σ : Type}

theorem khMulti_eq_ok {E : Engine σ} {s t : State.Of σ} : khMulti E s = .ok t ↔
    ∃ off h c blk, s.off = some off ∧ s.h = some h ∧ s.ctr = some c ∧ s.hs = .absorbing ∧
      off.toNat + 128 ≤ s.keyCap.toNat ∧ blk.toList = Memory.readBytes s.keyMem off.toNat 128 ∧
      t = ((((s.setHash (some (E.updateMulti h c blk).1) .absorbing).setCtr
        (some (E.updateMulti h c blk).2)).setOff (some (off + 128))).setPh
          (if moreThanBlock s.keyLen (off + 128) then .khMulti else .khLast)) :=
  absorbBlock_eq_ok (sp := .key) (next := fun o => if moreThanBlock s.keyLen o then .khMulti else .khLast)

theorem inMsgMulti_eq_ok {E : Engine σ} {s t : State.Of σ} : inMsgMulti E s = .ok t ↔
    ∃ off h c blk, s.off = some off ∧ s.h = some h ∧ s.ctr = some c ∧ s.hs = .absorbing ∧
      off.toNat + 128 ≤ s.dataCap.toNat ∧ blk.toList = Memory.readBytes s.dataMem off.toNat 128 ∧
      t = ((((s.setHash (some (E.updateMulti h c blk).1) .absorbing).setCtr
        (some (E.updateMulti h c blk).2)).setOff (some (off + 128))).setPh
          (if moreThanBlock s.dataLen (off + 128) then .inMsgMulti else .inMsgLast)) :=
  absorbBlock_eq_ok (sp := .data) (next := fun o => if moreThanBlock s.dataLen o then .inMsgMulti else .inMsgLast)

theorem khLast_eq_ok {E : Engine σ} {s t : State.Of σ} : khLast E s = .ok t ↔
    ∃ off h c, s.off = some off ∧ s.h = some h ∧ s.ctr = some c ∧ s.hs = .absorbing ∧
      (s.keyLen - off).toNat ≤ 128 ∧ off.toNat + (s.keyLen - off).toNat ≤ s.keyCap.toNat ∧
      t = ((((s.setHash
        (some (E.updateLast h c (Memory.readBytes s.keyMem off.toNat (s.keyLen - off).toNat)).1) .final).setCtr
        (some (E.updateLast h c (Memory.readBytes s.keyMem off.toNat (s.keyLen - off).toNat)).2)).setOff
        (some (off + (s.keyLen - off)))).setPh .khFinish) :=
  absorbLast_eq_ok (sp := .key)

theorem inMsgLast_eq_ok {E : Engine σ} {s t : State.Of σ} : inMsgLast E s = .ok t ↔
    ∃ off h c, s.off = some off ∧ s.h = some h ∧ s.ctr = some c ∧ s.hs = .absorbing ∧
      (s.dataLen - off).toNat ≤ 128 ∧ off.toNat + (s.dataLen - off).toNat ≤ s.dataCap.toNat ∧
      t = ((((s.setHash
        (some (E.updateLast h c (Memory.readBytes s.dataMem off.toNat (s.dataLen - off).toNat)).1) .final).setCtr
        (some (E.updateLast h c (Memory.readBytes s.dataMem off.toNat (s.dataLen - off).toNat)).2)).setOff
        (some (off + (s.dataLen - off)))).setPh .inFinish) :=
  absorbLast_eq_ok (sp := .data)

theorem check_eq_ok {s t : State.Of σ} : check s = .ok t ↔
    64 ≤ s.dstCap.toNat ∧ s.keyLen.toNat ≤ s.keyCap.toNat ∧ s.dataLen.toNat ≤ s.dataCap.toNat ∧
      t = s.setPh .kbClear := by
  unfold check
  split
  · simp; omega
  · split
    · simp; omega
    · split
      · simp; omega
      · simp only [Except.ok.injEq, eq_comm (a := t)]
        exact ⟨fun e => ⟨by omega, by omega, by omega, e⟩, fun e => e.2.2.2⟩

/-- What the micro-operation at a phase needs in `s` and the state it leaves when it completes. -/
inductive MicroOpEffect (E : Engine σ) (s : State.Of σ) : Phase → State.Of σ → Prop
  | idle : MicroOpEffect E s .idle s
  | check (h1 : 64 ≤ s.dstCap.toNat) (h2 : s.keyLen.toNat ≤ s.keyCap.toNat)
      (h3 : s.dataLen.toNat ≤ s.dataCap.toNat) : MicroOpEffect E s .check (s.setPh .kbClear)
  | kbClear : MicroOpEffect E s .kbClear
      ((s.setKeyblk (some (Bytes.zeros 128))).setPh (if keyIsShort s.keyLen then .knCopy else .khInit))
  | knCopy (kb : Block) (hk : s.keyblk = some kb) (h1 : s.keyLen.toNat ≤ 128)
      (h2 : s.keyLen.toNat ≤ s.keyCap.toNat) : MicroOpEffect E s .knCopy
      ((s.setKeyblk (some (overwrite kb (Memory.readBytes s.keyMem 0 s.keyLen.toNat)))).setPh .pdIpad)
  | khInit : MicroOpEffect E s .khInit
      ((((s.setHash (some E.init) .absorbing).setCtr (some 0)).setOff (some 0)).setPh .khMulti)
  | khMulti (off : Word32) (h : σ) (c : U128) (blk : Block) (ho : s.off = some off) (hh : s.h = some h)
      (hc : s.ctr = some c) (hs : s.hs = .absorbing) (hb : off.toNat + 128 ≤ s.keyCap.toNat)
      (he : blk.toList = Memory.readBytes s.keyMem off.toNat 128) : MicroOpEffect E s .khMulti
      ((((s.setHash (some (E.updateMulti h c blk).1) .absorbing).setCtr
        (some (E.updateMulti h c blk).2)).setOff (some (off + 128))).setPh
          (if moreThanBlock s.keyLen (off + 128) then .khMulti else .khLast))
  | khLast (off : Word32) (h : σ) (c : U128) (ho : s.off = some off) (hh : s.h = some h)
      (hc : s.ctr = some c) (hs : s.hs = .absorbing) (hr : (s.keyLen - off).toNat ≤ 128)
      (hb : off.toNat + (s.keyLen - off).toNat ≤ s.keyCap.toNat) : MicroOpEffect E s .khLast
      ((((s.setHash
        (some (E.updateLast h c (Memory.readBytes s.keyMem off.toNat (s.keyLen - off).toNat)).1) .final).setCtr
        (some (E.updateLast h c (Memory.readBytes s.keyMem off.toNat (s.keyLen - off).toNat)).2)).setOff
        (some (off + (s.keyLen - off)))).setPh .khFinish)
  | khFinish (kb : Block) (h : σ) (c : U128) (hk : s.keyblk = some kb) (hh : s.h = some h)
      (hc : s.ctr = some c) (hs : s.hs = .final) : MicroOpEffect E s .khFinish
      (((s.setHash none .empty).setKeyblk (some (overwrite kb (E.finish h c).toList))).setPh .pdIpad)
  | pdIpad (kb : Block) (hk : s.keyblk = some kb) : MicroOpEffect E s .pdIpad
      ((s.setIpad (some (xorPad Config.ipadByte kb))).setPh .pdOpad)
  | pdOpad (kb : Block) (hk : s.keyblk = some kb) : MicroOpEffect E s .pdOpad
      (((s.setOpad (some (xorPad Config.opadByte kb))).setKeyblk none).setPh .inInit)
  | inInit : MicroOpEffect E s .inInit
      ((((s.setHash (some E.init) .absorbing).setCtr (some 0)).setOff (some 0)).setPh
        (if messageIsEmpty s.dataLen then .inPadLast else .inPadMulti))
  | inPadLast (pad : Block) (h : σ) (c : U128) (hp : s.ipad = some pad) (hh : s.h = some h)
      (hc : s.ctr = some c) (hs : s.hs = .absorbing) : MicroOpEffect E s .inPadLast
      (((s.setHash (some (E.updateLast h c pad.toList).1) .final).setCtr
        (some (E.updateLast h c pad.toList).2)).setPh .inFinish)
  | inPadMulti (pad : Block) (off : Word32) (h : σ) (c : U128) (hp : s.ipad = some pad)
      (ho : s.off = some off) (hh : s.h = some h) (hc : s.ctr = some c) (hs : s.hs = .absorbing) :
      MicroOpEffect E s .inPadMulti
      (((s.setHash (some (E.updateMulti h c pad).1) .absorbing).setCtr (some (E.updateMulti h c pad).2)).setPh
        (if moreThanBlock s.dataLen off then .inMsgMulti else .inMsgLast))
  | inMsgMulti (off : Word32) (h : σ) (c : U128) (blk : Block) (ho : s.off = some off) (hh : s.h = some h)
      (hc : s.ctr = some c) (hs : s.hs = .absorbing) (hb : off.toNat + 128 ≤ s.dataCap.toNat)
      (he : blk.toList = Memory.readBytes s.dataMem off.toNat 128) : MicroOpEffect E s .inMsgMulti
      ((((s.setHash (some (E.updateMulti h c blk).1) .absorbing).setCtr
        (some (E.updateMulti h c blk).2)).setOff (some (off + 128))).setPh
          (if moreThanBlock s.dataLen (off + 128) then .inMsgMulti else .inMsgLast))
  | inMsgLast (off : Word32) (h : σ) (c : U128) (ho : s.off = some off) (hh : s.h = some h)
      (hc : s.ctr = some c) (hs : s.hs = .absorbing) (hr : (s.dataLen - off).toNat ≤ 128)
      (hb : off.toNat + (s.dataLen - off).toNat ≤ s.dataCap.toNat) : MicroOpEffect E s .inMsgLast
      ((((s.setHash
        (some (E.updateLast h c (Memory.readBytes s.dataMem off.toNat (s.dataLen - off).toNat)).1) .final).setCtr
        (some (E.updateLast h c (Memory.readBytes s.dataMem off.toNat (s.dataLen - off).toNat)).2)).setOff
        (some (off + (s.dataLen - off)))).setPh .inFinish)
  | inFinish (h : σ) (c : U128) (hh : s.h = some h) (hc : s.ctr = some c) (hs : s.hs = .final) :
      MicroOpEffect E s .inFinish (((s.setHash none .empty).setIdig (some (E.finish h c))).setPh .outInit)
  | outInit : MicroOpEffect E s .outInit
      ((((s.setHash (some E.init) .absorbing).setCtr (some 0)).setOff (some 0)).setPh .outPadMulti)
  | outPadMulti (pad : Block) (h : σ) (c : U128) (hp : s.opad = some pad) (hh : s.h = some h)
      (hc : s.ctr = some c) (hs : s.hs = .absorbing) : MicroOpEffect E s .outPadMulti
      (((s.setHash (some (E.updateMulti h c pad).1) .absorbing).setCtr
        (some (E.updateMulti h c pad).2)).setPh .outDigLast)
  | outDigLast (d : Digest) (h : σ) (c : U128) (hp : s.idig = some d) (hh : s.h = some h)
      (hc : s.ctr = some c) (hs : s.hs = .absorbing) : MicroOpEffect E s .outDigLast
      (((s.setHash (some (E.updateLast h c d.toList).1) .final).setCtr
        (some (E.updateLast h c d.toList).2)).setPh .outFinish)
  | outFinish (h : σ) (c : U128) (hh : s.h = some h) (hc : s.ctr = some c) (hs : s.hs = .final)
      (hd : 64 ≤ s.dstCap.toNat) : MicroOpEffect E s .outFinish
      (((s.setHash none .empty).setDst (Memory.writeBytes s.dstMem 0 (E.finish h c).toList)).setPh .retire)
  | retire : MicroOpEffect E s .retire
      (((((((s.setIpad none).setOpad none).setIdig none).setCtr none).setOff none).setStatus
        false true s.fault s.faultCode).setPh .idle)
  | faulted : MicroOpEffect E s .faulted s

/-- A micro-operation completes exactly with the effect listed for its phase. -/
theorem microOp_eq_ok {E : Engine σ} {p : Phase} {s t : State.Of σ} : microOp E p s = .ok t ↔ MicroOpEffect E s p t := by
  constructor
  · intro e
    cases p with
    | idle => cases e; exact .idle
    | check => obtain ⟨h1, h2, h3, rfl⟩ := check_eq_ok.mp e; exact .check h1 h2 h3
    | kbClear => cases e; exact .kbClear
    | knCopy => obtain ⟨kb, hk, h1, h2, rfl⟩ := knCopy_eq_ok.mp e; exact .knCopy kb hk h1 h2
    | khInit => obtain rfl := khInit_eq_ok.mp e; exact .khInit
    | khMulti =>
      obtain ⟨off, h, c, blk, ho, hh, hc, hs, hb, he, rfl⟩ := khMulti_eq_ok.mp e
      exact .khMulti off h c blk ho hh hc hs hb he
    | khLast =>
      obtain ⟨off, h, c, ho, hh, hc, hs, hr, hb, rfl⟩ := khLast_eq_ok.mp e
      exact .khLast off h c ho hh hc hs hr hb
    | khFinish => obtain ⟨kb, h, c, hk, hh, hc, hs, rfl⟩ := khFinish_eq_ok.mp e; exact .khFinish kb h c hk hh hc hs
    | pdIpad => obtain ⟨kb, hk, rfl⟩ := pdIpad_eq_ok.mp e; exact .pdIpad kb hk
    | pdOpad => obtain ⟨kb, hk, rfl⟩ := pdOpad_eq_ok.mp e; exact .pdOpad kb hk
    | inInit => obtain rfl := inInit_eq_ok.mp e; exact .inInit
    | inPadLast =>
      obtain ⟨pad, h, c, hp, hh, hc, hs, rfl⟩ := inPadLast_eq_ok.mp e; exact .inPadLast pad h c hp hh hc hs
    | inPadMulti =>
      obtain ⟨pad, off, h, c, hp, ho, hh, hc, hs, rfl⟩ := inPadMulti_eq_ok.mp e
      exact .inPadMulti pad off h c hp ho hh hc hs
    | inMsgMulti =>
      obtain ⟨off, h, c, blk, ho, hh, hc, hs, hb, he, rfl⟩ := inMsgMulti_eq_ok.mp e
      exact .inMsgMulti off h c blk ho hh hc hs hb he
    | inMsgLast =>
      obtain ⟨off, h, c, ho, hh, hc, hs, hr, hb, rfl⟩ := inMsgLast_eq_ok.mp e
      exact .inMsgLast off h c ho hh hc hs hr hb
    | inFinish => obtain ⟨h, c, hh, hc, hs, rfl⟩ := inFinish_eq_ok.mp e; exact .inFinish h c hh hc hs
    | outInit => obtain rfl := outInit_eq_ok.mp e; exact .outInit
    | outPadMulti =>
      obtain ⟨pad, h, c, hp, hh, hc, hs, rfl⟩ := outPadMulti_eq_ok.mp e; exact .outPadMulti pad h c hp hh hc hs
    | outDigLast =>
      obtain ⟨d, h, c, hp, hh, hc, hs, rfl⟩ := outDigLast_eq_ok.mp e; exact .outDigLast d h c hp hh hc hs
    | outFinish => obtain ⟨h, c, hh, hc, hs, hd, rfl⟩ := outFinish_eq_ok.mp e; exact .outFinish h c hh hc hs hd
    | retire => cases e; exact .retire
    | faulted => cases e; exact .faulted
  · intro e
    cases e with
    | idle | kbClear | retire | faulted => rfl
    | check h1 h2 h3 => exact check_eq_ok.mpr ⟨h1, h2, h3, rfl⟩
    | knCopy kb hk h1 h2 => exact knCopy_eq_ok.mpr ⟨kb, hk, h1, h2, rfl⟩
    | khInit => exact khInit_eq_ok.mpr rfl
    | khMulti off h c blk ho hh hc hs hb he =>
      exact khMulti_eq_ok.mpr ⟨off, h, c, blk, ho, hh, hc, hs, hb, he, rfl⟩
    | khLast off h c ho hh hc hs hr hb => exact khLast_eq_ok.mpr ⟨off, h, c, ho, hh, hc, hs, hr, hb, rfl⟩
    | khFinish kb h c hk hh hc hs => exact khFinish_eq_ok.mpr ⟨kb, h, c, hk, hh, hc, hs, rfl⟩
    | pdIpad kb hk => exact pdIpad_eq_ok.mpr ⟨kb, hk, rfl⟩
    | pdOpad kb hk => exact pdOpad_eq_ok.mpr ⟨kb, hk, rfl⟩
    | inInit => exact inInit_eq_ok.mpr rfl
    | inPadLast pad h c hp hh hc hs => exact inPadLast_eq_ok.mpr ⟨pad, h, c, hp, hh, hc, hs, rfl⟩
    | inPadMulti pad off h c hp ho hh hc hs => exact inPadMulti_eq_ok.mpr ⟨pad, off, h, c, hp, ho, hh, hc, hs, rfl⟩
    | inMsgMulti off h c blk ho hh hc hs hb he =>
      exact inMsgMulti_eq_ok.mpr ⟨off, h, c, blk, ho, hh, hc, hs, hb, he, rfl⟩
    | inMsgLast off h c ho hh hc hs hr hb => exact inMsgLast_eq_ok.mpr ⟨off, h, c, ho, hh, hc, hs, hr, hb, rfl⟩
    | inFinish h c hh hc hs => exact inFinish_eq_ok.mpr ⟨h, c, hh, hc, hs, rfl⟩
    | outInit => exact outInit_eq_ok.mpr rfl
    | outPadMulti pad h c hp hh hc hs => exact outPadMulti_eq_ok.mpr ⟨pad, h, c, hp, hh, hc, hs, rfl⟩
    | outDigLast d h c hp hh hc hs => exact outDigLast_eq_ok.mpr ⟨d, h, c, hp, hh, hc, hs, rfl⟩
    | outFinish h c hh hc hs hd => exact outFinish_eq_ok.mpr ⟨h, c, hh, hc, hs, hd, rfl⟩

/-- What a host transaction can leave. -/
inductive HostEffect (s : State.Of σ) : State.Of σ → Prop
  | nothing : HostEffect s s
  | start (hb : s.busy = false) (hf : s.fault = false) :
      HostEffect s ((s.setStatus true false s.fault s.faultCode).setPh .check)
  | keyLen (v : Word32) (hb : s.busy = false) : HostEffect s (s.setKeyLen v)
  | dataLen (v : Word32) (hb : s.busy = false) : HostEffect s (s.setDataLen v)
  | read (v : Option Word32) : HostEffect s (s.setRdData v)

/-- What an engine command can leave. -/
inductive PortEffect (s : State.Of σ) : State.Of σ → Prop
  | fault : PortEffect s (raiseFault .engineAssert s)
  | absorb (h : σ) (life : HashLife) (c : U128) : PortEffect s ((s.setHash (some h) life).setCtr (some c))
  | finish (d : BitVec 512) : PortEffect s ((s.setHash none .empty).setPortDigest (some d))

/-- What a sequencer step at a phase can leave: its effect, or the fault entry; only CHECK faults otherwise than by
ENGINE_ASSERT. -/
inductive PhaseEffect (E : Engine σ) (s : State.Of σ) (p : Phase) : State.Of σ → Prop
  | done (t : State.Of σ) (h : MicroOpEffect E s p t) : PhaseEffect E s p t
  | fault (c : FaultCause) (h : microOp E p s = .error c) (hc : p ≠ .check → c = .engineAssert) :
      PhaseEffect E s p (raiseFault c s)

theorem execStart_effect (s : State.Of σ) : ∃ t, execStart s = .next t ∧ HostEffect s t := by
  unfold execStart
  split
  · rename_i h; exact ⟨_, rfl, .start h.1 h.2⟩
  · exact ⟨_, rfl, .nothing⟩

theorem execWrKeyLen_effect (v : Word32) (s : State.Of σ) : ∃ t, execWrKeyLen v s = .next t ∧ HostEffect s t := by
  unfold execWrKeyLen
  split
  · exact ⟨_, rfl, .nothing⟩
  · rename_i h; exact ⟨_, rfl, .keyLen _ (by simpa using h)⟩

theorem execWrDataLen_effect (v : Word32) (s : State.Of σ) : ∃ t, execWrDataLen v s = .next t ∧ HostEffect s t := by
  unfold execWrDataLen
  split
  · exact ⟨_, rfl, .nothing⟩
  · rename_i h; exact ⟨_, rfl, .dataLen _ (by simpa using h)⟩

/-- A host transaction answers a next state, one of those listed, whatever the engine. -/
theorem execFor_decodeHt (E : Engine σ) (w : BitVec 36) (s : State.Of σ) :
    ∃ t, execFor E (decodeHt w) s = .next t ∧ HostEffect s t := by
  unfold decodeHt
  split <;> split <;> try split
  all_goals first
    | exact execStart_effect s
    | exact execWrKeyLen_effect _ s
    | exact execWrDataLen_effect _ s
    | exact ⟨_, rfl, .nothing⟩
    | exact ⟨_, rfl, .read _⟩

theorem commit_portEffect {s : State.Of σ} {r : Except FaultCause (State.Of σ)}
    (he : ∀ c, r = .error c → c = .engineAssert) (ho : ∀ t, r = .ok t → PortEffect s t) :
    ∃ t, commit s r = .next t ∧ PortEffect s t := by
  cases r with
  | ok t => exact ⟨t, rfl, ho t rfl⟩
  | error c => obtain rfl := he c rfl; exact ⟨_, rfl, .fault⟩

theorem initCommand_effect (E : Engine σ) (len : Byte) (s : State.Of σ) :
    ∃ t, commit s (initCommand E len s) = .next t ∧ PortEffect s t :=
  commit_portEffect (fun _ e => (portInit_eq_error.mp e).2) fun _ e => by
    obtain ⟨_, rfl⟩ := portInit_eq_ok.mp e; exact .absorb _ _ _

theorem updateMultiCommand_effect (E : Engine σ) (len : Byte) (blk : BitVec 1024) (s : State.Of σ) :
    ∃ t, commit s (updateMultiCommand E len blk s) = .next t ∧ PortEffect s t :=
  commit_portEffect (fun _ e => (portUpdateMulti_eq_error.mp e).2) fun _ e => by
    obtain ⟨_, _, _, _, _, rfl⟩ := portUpdateMulti_eq_ok.mp e; exact .absorb _ _ _

theorem updateLastCommand_effect (E : Engine σ) (len : Byte) (blk : BitVec 1024) (s : State.Of σ) :
    ∃ t, commit s (updateLastCommand E len blk s) = .next t ∧ PortEffect s t :=
  commit_portEffect (fun _ e => (portUpdateLast_eq_error.mp e).2) fun _ e => by
    obtain ⟨_, _, _, _, _, rfl⟩ := portUpdateLast_eq_ok.mp e; exact .absorb _ _ _

/-- FINISH completes with the digest on its bus and `H` consumed (42_hash_engine_port R115). -/
theorem finishCommand_eq_ok {E : Engine σ} {len : Byte} {s t : State.Of σ} : finishCommand E len s = .ok t ↔
    (s.hs = .final ∧ len = 0) ∧ ∃ h c, s.h = some h ∧ s.ctr = some c ∧
      t = (s.setHash none .empty).setPortDigest (some (digestBus (E.finish h c))) := by
  unfold finishCommand
  constructor
  · intro e
    cases hf : portFinish E len s with
    | error c => rw [hf] at e; cases e
    | ok r =>
      rw [hf] at e; cases e
      obtain ⟨h1, h, c, hh, hc, rfl⟩ := portFinish_eq_ok.mp hf
      exact ⟨h1, h, c, hh, hc, rfl⟩
  · rintro ⟨h1, h, c, hh, hc, rfl⟩
    rw [portFinish_eq_ok.mpr ⟨h1, h, c, hh, hc, rfl⟩]; rfl

theorem finishCommand_eq_error {E : Engine σ} {len : Byte} {s : State.Of σ} {c : FaultCause} :
    finishCommand E len s = .error c ↔
      (¬ (s.hs = .final ∧ len = 0) ∨ s.h = none ∨ s.ctr = none) ∧ c = .engineAssert := by
  rw [← portFinish_eq_error (E := E), finishCommand]
  cases portFinish E len s <;> simp [Except.map]

theorem finishCommand_effect (E : Engine σ) (len : Byte) (s : State.Of σ) :
    ∃ t, commit s (finishCommand E len s) = .next t ∧ PortEffect s t :=
  commit_portEffect (fun _ e => (finishCommand_eq_error.mp e).2) fun _ e => by
    obtain ⟨_, _, _, _, _, rfl⟩ := finishCommand_eq_ok.mp e; exact .finish _

/-- An engine command answers a next state, one of those listed. -/
theorem execFor_decodeEc (E : Engine σ) (hdr : BitVec 10) (blk : BitVec 1024) (s : State.Of σ) :
    ∃ t, execFor E (decodeEc hdr blk) s = .next t ∧ PortEffect s t := by
  unfold decodeEc
  split
  · exact initCommand_effect E _ s
  · exact updateMultiCommand_effect E _ _ s
  · exact updateLastCommand_effect E _ _ s
  · exact finishCommand_effect E _ s

/-- A phase's row answers a next state, one of those listed. -/
theorem execFor_phase_effect (E : Engine σ) (p : Phase) (s : State.Of σ) :
    ∃ t, execFor E p.instr s = .next t ∧ PhaseEffect E s p t := by
  rw [execFor_phase]
  cases e : microOp E p s with
  | ok t => exact ⟨t, rfl, .done t (microOp_eq_ok.mp e)⟩
  | error c => exact ⟨_, rfl, .fault c e (microOp_error_cause e)⟩

/-- What any instruction can leave, whatever the engine. -/
theorem execFor_effect {E : Engine σ} {i : Instr} {s t : State.Of σ} (h : execFor E i s = .next t) :
    HostEffect s t ∨ PortEffect s t ∨ ∃ p : Phase, i = p.instr ∧ PhaseEffect E s p t := by
  have host : (∃ u, execFor E i s = .next u ∧ HostEffect s u) → HostEffect s t := by
    rintro ⟨u, e, hu⟩; rw [h] at e; cases e; exact hu
  have port : (∃ u, execFor E i s = .next u ∧ PortEffect s u) → PortEffect s t := by
    rintro ⟨u, e, hu⟩; rw [h] at e; cases e; exact hu
  have phase : ∀ p : Phase, i = p.instr → ∃ p : Phase, i = p.instr ∧ PhaseEffect E s p t := by
    rintro p rfl
    obtain ⟨u, e, hu⟩ := execFor_phase_effect E p s
    rw [h] at e; cases e; exact ⟨p, rfl, hu⟩
  cases i with
  | start d => exact .inl (host (execStart_effect s))
  | wrKeyLen d => exact .inl (host (execWrKeyLen_effect d s))
  | wrDataLen d => exact .inl (host (execWrDataLen_effect d s))
  | wrCtrlNop | wrStatus | wrKeyCap | wrDataCap | wrDstCap | wrRsvd7 => exact .inl (host ⟨_, rfl, .nothing⟩)
  | rdCtrl | rdStatus | rdKeyLen | rdDataLen | rdKeyCap | rdDataCap | rdDstCap | rdRsvd7 =>
    exact .inl (host ⟨_, rfl, .read _⟩)
  | init len => exact .inr (.inl (port (initCommand_effect E len s)))
  | updateMulti len blk => exact .inr (.inl (port (updateMultiCommand_effect E len blk s)))
  | updateLast len blk => exact .inr (.inl (port (updateLastCommand_effect E len blk s)))
  | finish len => exact .inr (.inl (port (finishCommand_effect E len s)))
  | idle => exact .inr (.inr (phase .idle rfl))
  | check => exact .inr (.inr (phase .check rfl))
  | kbClear => exact .inr (.inr (phase .kbClear rfl))
  | knCopy => exact .inr (.inr (phase .knCopy rfl))
  | khInit => exact .inr (.inr (phase .khInit rfl))
  | khMulti => exact .inr (.inr (phase .khMulti rfl))
  | khLast => exact .inr (.inr (phase .khLast rfl))
  | khFinish => exact .inr (.inr (phase .khFinish rfl))
  | pdIpad => exact .inr (.inr (phase .pdIpad rfl))
  | pdOpad => exact .inr (.inr (phase .pdOpad rfl))
  | inInit => exact .inr (.inr (phase .inInit rfl))
  | inPadLast => exact .inr (.inr (phase .inPadLast rfl))
  | inPadMulti => exact .inr (.inr (phase .inPadMulti rfl))
  | inMsgMulti => exact .inr (.inr (phase .inMsgMulti rfl))
  | inMsgLast => exact .inr (.inr (phase .inMsgLast rfl))
  | inFinish => exact .inr (.inr (phase .inFinish rfl))
  | outInit => exact .inr (.inr (phase .outInit rfl))
  | outPadMulti => exact .inr (.inr (phase .outPadMulti rfl))
  | outDigLast => exact .inr (.inr (phase .outDigLast rfl))
  | outFinish => exact .inr (.inr (phase .outFinish rfl))
  | retire => exact .inr (.inr (phase .retire rfl))
  | faulted => exact .inr (.inr (phase .faulted rfl))

/-! The machine of the host's interface: the same, with `E := engine`. -/

theorem exec_decodeHt (w : BitVec 36) (s : State) : ∃ t, exec (decodeHt w) s = .next t ∧ HostEffect s t := by
  simpa only [exec_eq_execFor] using execFor_decodeHt engine w s

theorem exec_decodeEc (hdr : BitVec 10) (blk : BitVec 1024) (s : State) :
    ∃ t, exec (decodeEc hdr blk) s = .next t ∧ PortEffect s t := by
  simpa only [exec_eq_execFor] using execFor_decodeEc engine hdr blk s

theorem exec_phase_effect (p : Phase) (s : State) : ∃ t, exec p.instr s = .next t ∧ PhaseEffect engine s p t := by
  simpa only [exec_eq_execFor] using execFor_phase_effect engine p s

theorem exec_effect {i : Instr} {s t : State} (h : exec i s = .next t) :
    HostEffect s t ∨ PortEffect s t ∨ ∃ p : Phase, i = p.instr ∧ PhaseEffect engine s p t :=
  execFor_effect ((exec_eq_execFor i s).symm.trans h)

end Sys2Proof.Machine
end

