-- ==== Sys2Proof/Laws/PerInstr.lean ====
section
/-! SUPPORT. A statement about every instruction as syntax, one lemma per constructor: the code of a well-formed
instruction has the bits its row of spec/opcode_table.json fixes (`match` under `mask`, Decode.lean `tableRow`). -/

namespace Sys2Proof.Laws.RowMatch

/-- The encoded word of a well-formed instruction matches its row of the opcode table. -/
def Statement (i : Instr) : Prop :=
  i.wf = true → (encode i).tableBits &&& (tableRow i).2 = (tableRow i).1

/-- A row of format HT that fixes `W` and `REG` only. -/
theorem htWord_row (w : BitVec 1) (reg : BitVec 3) (d : Word32) :
    (htWord w reg d).toNat &&& 0xF00000000 = (w ++ reg ++ 0#32).toNat := by
  have h : htWord w reg d &&& (0xF#4 ++ 0#32) = w ++ reg ++ 0#32 := by
    rw [htWord, BitVec.and_append, BitVec.and_zero]
    congr 1; revert w reg; decide
  rw [← h, BitVec.toNat_and]; rfl

/-- A row of CTRL, which fixes the lowest bit of `DATA` too. -/
theorem htWord_ctrl_row (e : BitVec 31) (b : BitVec 1) :
    (htWord 1 0 (e ++ b)).toNat &&& 0xF00000001 = (0x8#4 ++ (0#31 ++ b)).toNat := by
  have h : htWord 1 0 (e ++ b) &&& (0xF#4 ++ (0#31 ++ 1#1)) = 0x8#4 ++ (0#31 ++ b) := by
    rw [htWord, BitVec.and_append, BitVec.and_append, BitVec.and_zero]
    congr 1
    revert b; decide
  rw [← h, BitVec.toNat_and]; rfl

theorem start (d : BitVec 31) : Statement (.start d) := fun _ => htWord_ctrl_row d _
theorem wrCtrlNop (d : BitVec 31) : Statement (.wrCtrlNop d) := fun _ => htWord_ctrl_row d _
theorem wrStatus (d : Word32) : Statement (.wrStatus d) := fun _ => htWord_row _ _ d
theorem wrKeyLen (d : Word32) : Statement (.wrKeyLen d) := fun _ => htWord_row _ _ d
theorem wrDataLen (d : Word32) : Statement (.wrDataLen d) := fun _ => htWord_row _ _ d
theorem wrKeyCap (d : Word32) : Statement (.wrKeyCap d) := fun _ => htWord_row _ _ d
theorem wrDataCap (d : Word32) : Statement (.wrDataCap d) := fun _ => htWord_row _ _ d
theorem wrDstCap (d : Word32) : Statement (.wrDstCap d) := fun _ => htWord_row _ _ d
theorem wrRsvd7 (d : Word32) : Statement (.wrRsvd7 d) := fun _ => htWord_row _ _ d
theorem rdCtrl (d : Word32) : Statement (.rdCtrl d) := fun _ => htWord_row _ _ d
theorem rdStatus (d : Word32) : Statement (.rdStatus d) := fun _ => htWord_row _ _ d
theorem rdKeyLen (d : Word32) : Statement (.rdKeyLen d) := fun _ => htWord_row _ _ d
theorem rdDataLen (d : Word32) : Statement (.rdDataLen d) := fun _ => htWord_row _ _ d
theorem rdKeyCap (d : Word32) : Statement (.rdKeyCap d) := fun _ => htWord_row _ _ d
theorem rdDataCap (d : Word32) : Statement (.rdDataCap d) := fun _ => htWord_row _ _ d
theorem rdDstCap (d : Word32) : Statement (.rdDstCap d) := fun _ => htWord_row _ _ d
theorem rdRsvd7 (d : Word32) : Statement (.rdRsvd7 d) := fun _ => htWord_row _ _ d
theorem idle : Statement .idle := fun _ => rfl
theorem check : Statement .check := fun _ => rfl
theorem kbClear : Statement .kbClear := fun _ => rfl
theorem knCopy : Statement .knCopy := fun _ => rfl
theorem khInit : Statement .khInit := fun _ => rfl
theorem khMulti : Statement .khMulti := fun _ => rfl
theorem khLast : Statement .khLast := fun _ => rfl
theorem khFinish : Statement .khFinish := fun _ => rfl
theorem pdIpad : Statement .pdIpad := fun _ => rfl
theorem pdOpad : Statement .pdOpad := fun _ => rfl
theorem inInit : Statement .inInit := fun _ => rfl
theorem inPadLast : Statement .inPadLast := fun _ => rfl
theorem inPadMulti : Statement .inPadMulti := fun _ => rfl
theorem inMsgMulti : Statement .inMsgMulti := fun _ => rfl
theorem inMsgLast : Statement .inMsgLast := fun _ => rfl
theorem inFinish : Statement .inFinish := fun _ => rfl
theorem outInit : Statement .outInit := fun _ => rfl
theorem outPadMulti : Statement .outPadMulti := fun _ => rfl
theorem outDigLast : Statement .outDigLast := fun _ => rfl
theorem outFinish : Statement .outFinish := fun _ => rfl
theorem retire : Statement .retire := fun _ => rfl
theorem faulted : Statement .faulted := fun _ => rfl

theorem init (len : Byte) : Statement (.init len) := by
  intro h; rw [eq_of_beq h]; rfl

theorem updateMulti (len : Byte) (blk : BitVec 1024) : Statement (.updateMulti len blk) := by
  intro h; rw [eq_of_beq h]
  show (ecHeader 1 128).toNat &&& 0x3FF = 0x180
  decide

theorem updateLast (len : Byte) (blk : BitVec 1024) : Statement (.updateLast len blk) := by
  have h : ∀ l : Byte, (ecHeader 2 l).toNat &&& 0x300 = 0x200 := by decide
  exact fun _ => h len

theorem finish (len : Byte) : Statement (.finish len) := by
  intro h; rw [eq_of_beq h]; rfl

end Sys2Proof.Laws.RowMatch
end

