-- ==== Sys2Proof/Tests/Slice0.lean ====
section
/-! SUPPORT. Tests. Expected values are those of spec/95_test_vectors.md and spec/96_test_vectors_compute.md (the
vector is named) or are worked out by hand from the rule named; none is the model's own answer. Below them, for every
statement with hypotheses, a concrete state that meets them all together. -/

set_option Elab.async false

namespace Sys2Proof.Tests

open Sys2Proof Sys2Proof.Machine

/-! ### Helpers -/

/-- A field of the next state, if the answer is one. -/
def field {α : Type} (f : State → α) : Result → Option α
  | .next t => some (f t)
  | .fault _ => none
  | .refused _ => none

/-- `n` bytes `g 0, g 1, ..` from offset 0. -/
def space (g : Nat → Byte) (n : Nat) : Memory := Memory.writeBytes [] 0 ((List.range n).map g)

/-- Byte `i` is `i mod 256` (`00 01 02 ..` in the vectors). -/
def count (i : Nat) : Byte := BitVec.ofNat 8 i

/-- The state of the host transaction vectors: KEY_CAP = 3, DATA_CAP = 43, DST_CAP = 64 (95 section 4). -/
def attached : State := { State.reset with keyCap := 3, dataCap := 43, dstCap := 64 }

/-- A COMPUTE in progress at phase `p`, lengths 3 and 43. -/
def busyAt (p : Phase) : State := { attached with busy := true, ph := p, keyLen := 3, dataLen := 43 }

/-- A fault DST_SHORT taken (HT10, HT14). -/
def faulted : State := { attached with fault := true, faultCode := 1, ph := .faulted }

/-- A hash state in a life-cycle state, counter `c`, offset `o`. -/
def hashing (p : Phase) (life : HashLife) (c : U128) (o : Word32) : State :=
  { busyAt p with h := some blakeInit, hs := life, ctr := some c, off := some o }

/-- The key of `n` bytes `00 01 ..`. -/
def withKey (n : Nat) (s : State) : State :=
  { s with keyLen := BitVec.ofNat 32 n, keyCap := BitVec.ofNat 32 n, keyMem := space count n }

/-- A message of `n` bytes `00 01 ..`. -/
def withData (n : Nat) (s : State) : State :=
  { s with dataLen := BitVec.ofNat 32 n, dataCap := BitVec.ofNat 32 n, dataMem := space count n }

/-! ### Well-formedness: the ill-formed commands of 30_encoding R69 (95 ENC2) are refused, the legal ones pass -/

theorem test_wf_init_refuses_len_1 : Instr.wf (.init 1) = false := by decide

theorem test_wf_multi_refuses_len_127 : Instr.wf (.updateMulti 127 0) = false := by decide

theorem test_wf_last_refuses_len_129 : Instr.wf (.updateLast 129 0) = false := by decide

theorem test_wf_finish_refuses_len_1 : Instr.wf (.finish 1) = false := by decide

theorem test_wf_accepts_legal_commands :
    [Instr.init 0, .updateMulti 128 0, .updateLast 0 0, .updateLast 128 0, .finish 0].all Instr.wf = true := by decide

/-! ### Decoding: words written out from the spec (95 ENC1, ENC2, ENC3; 10_state R20) -/

/-- START bit by bit: `W = 1`, `REG = 000`, `DATA` bit 0 (R61, R62). -/
theorem test_decode_start_bits :
    decode (.ht (1#1 ++ 0b000#3 ++ 0b00000000000000000000000000000001#32)) = .ok (.start 0) := by decide

/-- WR DATA_LEN, 43 bit by bit: `W = 1`, `REG = 011`, `DATA = 43`. -/
theorem test_decode_wr_data_len_bits :
    decode (.ht (1#1 ++ 0b011#3 ++ 0b00000000000000000000000000101011#32)) = .ok (.wrDataLen 43) := by decide

theorem test_decode_enc1_writes :
    [0x8FFFFFFFF, 0x800000000, 0x8FFFFFFFE, 0x9FFFFFFFF, 0xA00000081, 0xAFFFFFFFF, 0xB0000002B, 0xC00000040,
      0xD00000040, 0xE00000040, 0xF12345678].map (decodeTableWord 40) =
    [some (.start 0x7FFFFFFF), some (.wrCtrlNop 0), some (.wrCtrlNop 0x7FFFFFFF), some (.wrStatus 0xFFFFFFFF),
      some (.wrKeyLen 129), some (.wrKeyLen 0xFFFFFFFF), some (.wrDataLen 43), some (.wrKeyCap 64),
      some (.wrDataCap 64), some (.wrDstCap 64), some (.wrRsvd7 0x12345678)] := by decide +kernel

theorem test_decode_enc1_reads :
    [0x000000000, 0x100000000, 0x1DEADBEEF, 0x200000000, 0x300000000, 0x400000000, 0x500000000, 0x600000000,
      0x700000000].map (decodeTableWord 40) =
    [some (.rdCtrl 0), some (.rdStatus 0), some (.rdStatus 0xDEADBEEF), some (.rdKeyLen 0), some (.rdDataLen 0),
      some (.rdKeyCap 0), some (.rdDataCap 0), some (.rdDstCap 0), some (.rdRsvd7 0)] := by decide +kernel

theorem test_decode_phases :
    (List.range 32).map (decodeTableWord 8) =
    [some .idle, some .check, some .kbClear, some .knCopy, some .khInit, some .khMulti, some .khLast,
      some .khFinish, some .pdIpad, some .pdOpad, some .inInit, some .inPadLast, some .inPadMulti,
      some .inMsgMulti, some .inMsgLast, some .inFinish, some .outInit, some .outPadMulti, some .outDigLast,
      some .outFinish, some .retire, none, none, none, none, none, none, none, none, none, none,
      some .faulted] := by decide +kernel

theorem test_decode_enc2 :
    [0x000, 0x180, 0x201, 0x22B, 0x240, 0x280, 0x300, 0x17F, 0x281, 0x001, 0x200].map (decodeTableWord 16) =
    [some (.init 0), some (.updateMulti 128 0), some (.updateLast 1 0), some (.updateLast 43 0),
      some (.updateLast 64 0), some (.updateLast 128 0), some (.finish 0), some (.updateMulti 127 0),
      some (.updateLast 129 0), some (.init 1), some (.updateLast 0 0)] := by decide +kernel

/-- UPDATE_LAST, LEN = 43 bit by bit (ENC2): `OP = 10`, `LEN = 00101011`. -/
theorem test_decode_update_last_bits :
    decode (.ec (0b10#2 ++ 0b00101011#8) 0) = .ok (.updateLast 43 0) := by decide +kernel

theorem test_decode_rejects_by_name :
    decode (.ph 0x15) = .error .reservedPhase ∧ codeOfBytes .ht [1, 0, 0, 0] = .error .tooFewBytes ∧
      codeOfBytes .ph [0x20] = .error .strayBits := by decide +kernel

/-- Two codes in a row: START's five bytes, then `RD STATUS` (ENC1). -/
theorem test_decode_leaves_the_rest :
    decodeBytes .ht [0x01, 0, 0, 0, 0x08, 0, 0, 0, 0, 0x01] = .ok (.start 0, [0, 0, 0, 0, 0x01]) := by decide +kernel

/-! ### Reset and fetch -/

/-- 10_state R33, and HT1 on the word. -/
theorem test_reset_status_is_zero : statusWord State.reset = 0 ∧ State.reset.ph = .idle := by decide

/-- A placed host transaction runs as the next step (HT7). -/
theorem test_fetch_start : field (·.ph) (step (attached.withFetchWord 40 0x800000001)) = some .check := by
  decide +kernel

/-- A placed phase runs as the next step (40 R82). -/
theorem test_fetch_kb_clear :
    field (·.ph) (step ((withKey 129 attached).withFetchWord 8 0x02)) = some .khInit := by decide +kernel

/-- A placed engine command runs as the next step (42 R111). -/
theorem test_fetch_init : field (·.hs) (step (attached.withFetchWord 16 0x000)) = some .absorbing := by
  decide +kernel

/-! ### Host transactions (95 section 4) -/

/-- HT7, HT8. -/
theorem test_start_accepted :
    field statusWord (exec (.start 0) { attached with done := true }) = some 0x00000001 := by decide

/-- HT9, HT10. -/
theorem test_start_ignored :
    exec (.start 0) (busyAt .inMsgMulti) = .next (busyAt .inMsgMulti) ∧ exec (.start 0) faulted = .next faulted :=
  ⟨rfl, rfl⟩

/-- HT17. -/
theorem test_wr_ctrl_nop : exec (.wrCtrlNop 0x7FFFFFFF) attached = .next attached := rfl

/-- HT14. -/
theorem test_wr_status : field statusWord (exec (.wrStatus 0xFFFFFFFF) faulted) = some 0x00000014 := by decide

/-- HT5. -/
theorem test_wr_key_len : field (·.keyLen) (exec (.wrKeyLen 3) attached) = some 3 := by decide

/-- HT11, HT18: dropped while BUSY = 1, performed while FAULT = 1. -/
theorem test_wr_key_len_busy_and_faulted :
    field (·.keyLen) (exec (.wrKeyLen 7) (busyAt .check)) = some 3 ∧
      field (·.keyLen) (exec (.wrKeyLen 3) { faulted with keyLen := 4 }) = some 3 := by decide

/-- HT6. -/
theorem test_wr_data_len : field (·.dataLen) (exec (.wrDataLen 43) attached) = some 43 := by decide

/-- HT12. -/
theorem test_wr_data_len_busy : field (·.dataLen) (exec (.wrDataLen 0) (busyAt .check)) = some 43 := by decide

/-- HT16. -/
theorem test_wr_caps :
    field (·.keyCap) (exec (.wrKeyCap 1000) attached) = some 3 ∧
      field (·.dataCap) (exec (.wrDataCap 1000) attached) = some 43 := by decide

/-- HT15. -/
theorem test_wr_dst_cap : field (·.dstCap) (exec (.wrDstCap 64) { attached with dstCap := 63 }) = some 63 := by decide

/-- HT4, HT17. -/
theorem test_register_7 :
    field (·.rdData) (exec (.rdRsvd7 0) faulted) = some (some 0) ∧ exec (.wrRsvd7 5) attached = .next attached :=
  ⟨rfl, rfl⟩

/-- HT4: START is never read back. -/
theorem test_rd_ctrl : field (·.rdData) (exec (.rdCtrl 0) (busyAt .check)) = some (some 0) := by decide

/-- ENC3, for the two faults that are read most: KEY_SHORT and DATA_SHORT. -/
theorem test_rd_status :
    field (·.rdData) (exec (.rdStatus 0) { faulted with faultCode := 2 }) = some (some 0x00000024) ∧
      field (·.rdData) (exec (.rdStatus 0) { faulted with faultCode := 3 }) = some (some 0x00000034) := by decide

/-- HT2 and HT3. -/
theorem test_rd_lengths_and_caps :
    field (·.rdData) (exec (.rdKeyLen 0) attached) = some (some 0) ∧
      field (·.rdData) (exec (.rdDataLen 0) (busyAt .check)) = some (some 43) ∧
      field (·.rdData) (exec (.rdKeyCap 0) attached) = some (some 3) ∧
      field (·.rdData) (exec (.rdDataCap 0) attached) = some (some 43) ∧
      field (·.rdData) (exec (.rdDstCap 0) attached) = some (some 64) := by decide

/-! ### Phases -/

/-- 44 R180: no sequencer step in a resting phase. -/
theorem test_resting : exec .idle attached = .next attached ∧ exec .faulted faulted = .next faulted := ⟨rfl, rfl⟩

/-- F-vectors and the examples of 44 R194: the lowest code wins (60 R206). -/
theorem test_check_faults :
    field statusWord (exec .check { busyAt .check with dstCap := 63, keyLen := 4 }) = some 0x00000014 ∧
      field statusWord (exec .check { busyAt .check with keyLen := 4, dataLen := 44 }) = some 0x00000024 ∧
      field statusWord (exec .check { busyAt .check with dataLen := 44 }) = some 0x00000034 := by decide

/-- Equality passes (44 R194). -/
theorem test_check_passes : field (·.ph) (exec .check (busyAt .check)) = some .kbClear := by decide

/-- The branch boundary of 40 R82. -/
theorem test_kb_clear_branch :
    field (·.ph) (exec .kbClear (withKey 128 (busyAt .kbClear))) = some .knCopy ∧
      field (·.ph) (exec .kbClear (withKey 129 (busyAt .kbClear))) = some .khInit := by decide +kernel

/-- The key `"key"` of KN2. -/
theorem test_kn_copy :
    field (fun t => t.keyblk.map fun b => b.toList.take 5)
      (exec .knCopy { busyAt .knCopy with
        keyMem := [(0, 0x6b), (1, 0x65), (2, 0x79)], keyblk := some (Bytes.zeros 128) }) =
      some (some [0x6b, 0x65, 0x79, 0, 0]) := by decide +kernel

/-- 40 R84. -/
theorem test_kh_init :
    field (fun t => (t.hs, t.ctr, t.off, t.ph)) (exec .khInit (withKey 129 (busyAt .khInit))) =
      some (.absorbing, some 0, some 0, .khMulti) := by decide

/-- The example of 40 R85, and KN7's second round. -/
theorem test_kh_multi :
    field (fun t => (t.ctr, t.off, t.ph)) (exec .khMulti (withKey 129 (hashing .khMulti .absorbing 0 0))) =
      some (some 128, some 128, .khLast) ∧
    field (fun t => (t.ctr, t.off, t.ph)) (exec .khMulti (withKey 257 (hashing .khMulti .absorbing 0 0))) =
      some (some 128, some 128, .khMulti) := by decide +kernel

/-- The example of 40 R86. -/
theorem test_kh_last :
    field (fun t => (t.ctr, t.off, t.hs, t.ph)) (exec .khLast (withKey 129 (hashing .khLast .absorbing 128 128))) =
      some (some 129, some 129, .final, .khFinish) := by decide +kernel

/-- The state words of EN2 after UPDATE_LAST("abc"). -/
def abcState : HashState :=
  ⟨0x0d4d1c983fa580ba, 0xe9f6129fb697276a, 0xb7c45a68142f214c, 0xd1a2ffdb6fbb124b,
   0x2d79ab2a39c5877d, 0x95cc3345ded552c2, 0x5a92f1dba88ad318, 0x239900d4ed8623b9⟩

/-- FINISH of EN2: the first bytes of the digest in KEYBLK, byte 64 kept (40 R87). -/
theorem test_kh_finish :
    field (fun t => (t.keyblk.map fun b => (b.toList.take 4, b.get 63, b.get 64), t.h, t.hs))
      (exec .khFinish { hashing .khFinish .final 3 3 with h := some abcState, keyblk := some (Bytes.rep 7 128) }) =
      some (some ([0xba, 0x80, 0xa5, 0x3f], 0x23, 7), none, .empty) := by decide +kernel

/-- PD5 and PD2. -/
theorem test_pd_ipad :
    field (fun t => t.ipad.map fun b => b.toList.take 6)
      (exec .pdIpad { busyAt .pdIpad with
        keyblk := some (Bytes.ofList 128 [0x00, 0x36, 0x5c, 0xff, 0x6b, 0x65]) }) =
      some (some [0x36, 0x00, 0x6a, 0xc9, 0x5d, 0x53]) := by decide +kernel

/-- PD5 and PD2; the key block is discarded. -/
theorem test_pd_opad :
    field (fun t => (t.opad.map fun b => b.toList.take 6, t.keyblk))
      (exec .pdOpad { busyAt .pdOpad with
        keyblk := some (Bytes.ofList 128 [0x00, 0x36, 0x5c, 0xff, 0x6b, 0x65]) }) =
      some (some [0x5c, 0x6a, 0x00, 0xa3, 0x37, 0x39], none) := by decide +kernel

/-- The examples of 43 R150. -/
theorem test_in_init :
    field (·.ph) (exec .inInit { busyAt .inInit with dataLen := 0 }) = some .inPadLast ∧
      field (·.ph) (exec .inInit { busyAt .inInit with dataLen := 3 }) = some .inPadMulti := by decide

/-- HM7's inner pass: `UPDATE_LAST(128, 0 -> 128)`. -/
theorem test_in_pad_last :
    field (fun t => (t.ctr, t.hs, t.ph))
      (exec .inPadLast { hashing .inPadLast .absorbing 0 0 with ipad := some (Bytes.rep 0x36 128) }) =
      some (some 128, .final, .inFinish) := by decide +kernel

/-- The boundary of 43 R152. -/
theorem test_in_pad_multi :
    field (fun t => (t.ctr, t.ph))
      (exec .inPadMulti { withData 128 (hashing .inPadMulti .absorbing 0 0) with ipad := some (Bytes.rep 0x36 128) }) =
      some (some 128, .inMsgLast) ∧
    field (fun t => (t.ctr, t.ph))
      (exec .inPadMulti { withData 129 (hashing .inPadMulti .absorbing 0 0) with ipad := some (Bytes.rep 0x36 128) }) =
      some (some 128, .inMsgMulti) := by decide +kernel

/-- The example of 43 R153. -/
theorem test_in_msg_multi :
    field (fun t => (t.ctr, t.off, t.ph)) (exec .inMsgMulti (withData 300 (hashing .inMsgMulti .absorbing 128 0))) =
      some (some 256, some 128, .inMsgMulti) ∧
    field (fun t => (t.ctr, t.off, t.ph)) (exec .inMsgMulti (withData 300 (hashing .inMsgMulti .absorbing 256 128))) =
      some (some 384, some 256, .inMsgLast) := by decide +kernel

/-- The example of 43 R154. -/
theorem test_in_msg_last :
    field (fun t => (t.ctr, t.off, t.hs, t.ph))
      (exec .inMsgLast (withData 300 (hashing .inMsgLast .absorbing 384 256))) =
      some (some 428, some 300, .final, .inFinish) := by decide +kernel

/-- EN2's digest as the inner digest. -/
theorem test_in_finish :
    field (fun t => (t.idig.map fun b => b.toList.take 4, t.h, t.hs, t.ctr, t.ph))
      (exec .inFinish { hashing .inFinish .final 171 43 with h := some abcState }) =
      some (some [0xba, 0x80, 0xa5, 0x3f], none, .empty, some 171, .outInit) := by decide +kernel

/-- 43 R156. -/
theorem test_out_init :
    field (fun t => (t.hs, t.ctr, t.off, t.ph)) (exec .outInit { busyAt .outInit with ctr := some 171 }) =
      some (.absorbing, some 0, some 0, .outPadMulti) := by decide

/-- 43 R157. -/
theorem test_out_pad_multi :
    field (fun t => (t.ctr, t.ph))
      (exec .outPadMulti { hashing .outPadMulti .absorbing 0 0 with opad := some (Bytes.rep 0x5c 128) }) =
      some (some 128, .outDigLast) := by decide +kernel

/-- 43 R158. -/
theorem test_out_dig_last :
    field (fun t => (t.ctr, t.hs, t.ph))
      (exec .outDigLast { hashing .outDigLast .absorbing 128 0 with idig := some (Bytes.zeros 64) }) =
      some (some 192, .final, .outFinish) := by decide +kernel

/-- EN2's digest as the tag: bytes 0, 1 and 63, and byte 64 of a DST full of 0xEE unchanged (43 R159). -/
theorem test_out_finish :
    field (fun t => ([0, 1, 63, 64].map (Memory.read t.dstMem), t.h, t.ph))
      (exec .outFinish { hashing .outFinish .final 192 0 with
        h := some abcState, dstCap := 80, dstMem := space (fun _ => 0xEE) 80 }) =
      some ([0xba, 0x80, 0x23, 0xEE], none, .retire) := by decide +kernel

/-- 44 R195, the example. -/
theorem test_retire :
    field (fun t => (statusWord t, t.ph, t.ctr, t.off, t.keyLen)) (exec .retire (hashing .retire .empty 192 0)) =
      some (0x00000002, .idle, none, none, 3) := by decide

/-! ### Engine commands (95 section 2) -/

/-- EN2 after INIT. -/
theorem test_init :
    field (fun t => (t.h.map (·.h0), t.h.map (·.h7), t.hs, t.ctr)) (exec (.init 0) attached) =
      some (some 0x6a09e667f2bdc948, some 0x5be0cd19137e2179, .absorbing, some 0) := by decide +kernel

/-- 42 R116 and ENC2: an illegal LEN. -/
theorem test_init_illegal_len : field statusWord (exec (.init 1) attached) = some 0x00000044 := by decide

/-- EN4: the block `00 01 .. 7f` given as a non-final block. -/
theorem test_update_multi :
    field (fun t => (t.h.map (·.h0), t.hs, t.ctr))
      (exec (.updateMulti 128 (busOf 1024 ((List.range 128).map count))) (hashing .idle .absorbing 0 0)) =
      some (some 0xffa0852a267eb85a, .absorbing, some 128) := by decide +kernel

/-- ENC2: LEN = 127 raises ENGINE_ASSERT and leaves the hash state. -/
theorem test_update_multi_illegal_len :
    field (fun t => (t.faultCode, t.ph, t.hs)) (exec (.updateMulti 127 0) (hashing .idle .absorbing 0 0)) =
      some (4, .faulted, .absorbing) := by decide +kernel

/-- EN2: `UPDATE_LAST(3, 0 -> 3)` on "abc"; lane 3 and the lanes above are not looked at (30 R64). -/
theorem test_update_last :
    field (fun t => (t.h, t.hs, t.ctr))
      (exec (.updateLast 3 (busOf 1024 [0x61, 0x62, 0x63, 0xff])) (hashing .idle .absorbing 0 0)) =
      some (some abcState, .final, some 3) := by decide +kernel

/-- ENC2: LEN = 129. -/
theorem test_update_last_illegal_len :
    field (·.faultCode) (exec (.updateLast 129 0) (hashing .idle .absorbing 0 0)) = some 4 := by decide +kernel

/-- EN2: FINISH(3); the first and the last byte of the digest in bits 7:0, 15:8 and 511:504 of `DIGEST` (30 R64). -/
theorem test_finish :
    field (fun t => (t.portDigest.map fun b => (b.extractLsb' 0 8, b.extractLsb' 8 8, b.extractLsb' 504 8), t.h,
        t.hs, t.ctr))
      (exec (.finish 0) { hashing .idle .final 3 0 with h := some abcState }) =
      some (some (0xba, 0x80, 0x23), none, .empty, some 3) := by decide +kernel

/-- 42 R116: FINISH needs HS = FINAL. -/
theorem test_finish_wrong_order :
    field (·.faultCode) (exec (.finish 0) (hashing .idle .absorbing 3 0)) = some 4 := by decide +kernel

/-! ### POLL (30 R72) -/

/-- While BUSY = 1 the read is followed by a turn of the sequencer and another read; the first read with bit 0 = 0 is
the last, after a COMPUTE and after a fault. -/
theorem test_poll :
    field (·.inputs) (step { busyAt .check with inputs := [.poll] }) = some [.sequencer, .poll] ∧
    field (fun t => (t.inputs, t.rdData)) (step { attached with done := true, inputs := [.poll] }) =
      some ([], some 2) ∧
    field (fun t => (t.inputs, t.rdData)) (step { faulted with inputs := [.poll] }) =
      some ([], some 0x14) := by decide +kernel

/-! ### Another engine (42 R119) -/

/-- An engine over another state type: it only counts bytes. -/
def countingEngine : Engine Nat :=
  { init := 0
    updateMulti := fun h c _ => (h + 128, c + 128)
    updateLast := fun h c x => (h + x.length, c + BitVec.ofNat 128 x.length)
    finish := fun h _ => Bytes.rep (BitVec.ofNat 8 h) 64 }

/-- A launch of 3 and 43 bytes on a composer with that engine. -/
def countingLaunch : State.Of Nat :=
  { State.resetOf Nat with
    busy := true, ph := .check, keyLen := 3, keyCap := 3, dataLen := 43, dataCap := 43, dstCap := 64 }

/-- The machine takes any engine: the outer pass of a COMPUTE hands it 192 bytes (43 R161). -/
theorem test_another_engine :
    (match Host.Core.run (coreFor countingEngine) (computeSteps 3 43) countingLaunch with
      | .next t => some (statusWord t, Memory.read t.dstMem 0, Memory.read t.dstMem 63)
      | .fault _ => none
      | .refused _ => none) = some (2, 192, 192) := by decide +kernel

/-! ### Operand spaces and reset -/

/-- 30 R71: ATTACH gives the capacity and the contents; a zero byte is not listed (log 6). -/
theorem test_attach :
    field (fun t => (t.keyCap, t.keyMem)) (platformAct (.attach .key 3 [0x6b, 0, 0x79]) State.reset) =
      some (3, [(0, 0x6b), (2, 0x79)]) := by decide +kernel

/-- 10_state R30: offset `C - 1` is the last byte; 20 R42: nothing while BUSY = 1. -/
theorem test_host_write_bounds :
    field (·.dstMem) (platformAct (.hostWrite .dst 63 0xEE) attached) = some [(63, 0xEE)] ∧
      field (·.dstMem) (platformAct (.hostWrite .dst 64 0xEE) attached) = none ∧
      field (·.dstMem) (platformAct (.hostWrite .dst 63 0xEE) (busyAt .check)) = none := by decide +kernel

/-- Writing what an unlisted offset reads as takes the entry out. -/
theorem test_memory_canonical : Memory.write [(1, 5), (2, 6)] 1 0 = [(2, 6)] := by decide

/-- 70 R232, R233: a reset while BUSY = 1 or FAULT = 1; the capacities stay. -/
theorem test_reset_action :
    field (fun t => (statusWord t, t.ph, t.keyLen)) (platformAct .reset (hashing .inMsgMulti .absorbing 128 0)) =
      some (0, .idle, 0) ∧
    field (fun t => (t.hs, t.h, t.dstCap)) (platformAct .reset (hashing .inMsgMulti .absorbing 128 0)) =
      some (.empty, none, 64) ∧
    field statusWord (platformAct .reset faulted) = some 0 := by decide

/-! ### Witnesses: for every statement with hypotheses, concrete values that meet them all together -/

/-- In the key hash, 300 bytes, one block done. -/
def midKey : State :=
  { hashing .khMulti .absorbing 128 128 with keyLen := 300, keyCap := 300, keyblk := some (Bytes.zeros 128) }

/-- The last chunk of a key of 256 bytes: a whole block. -/
def lastKey : State :=
  { hashing .khLast .absorbing 128 128 with keyLen := 256, keyCap := 256, keyblk := some (Bytes.zeros 128) }

/-- The key hash before FINISH. -/
def endKey : State :=
  { hashing .khFinish .final 129 129 with keyLen := 129, keyCap := 129, keyblk := some (Bytes.zeros 128) }

/-- The registers after the pad deriver. -/
def withPads (s : State) : State :=
  { s with ipad := some (Bytes.rep 0x36 128), opad := some (Bytes.rep 0x5c 128) }

/-- The last message chunk of 43 bytes. -/
def lastData : State := withPads (hashing .inMsgLast .absorbing 128 0)

/-- Before OUT_FINISH. -/
def endOuter : State := withPads { hashing .outFinish .final 192 0 with idig := some (Bytes.zeros 64) }

/-- Before RETIRE. -/
def retiring : State :=
  withPads { busyAt .retire with idig := some (Bytes.rep 9 64), ctr := some 192, off := some 0, dstMem := [(0, 0xba)] }

/-- A launch whose DST is one byte short. -/
def shortDst : State := { busyAt .check with dstCap := 63 }

theorem witness_inv_check : Inv (busyAt .check) ∧ contractHolds (busyAt .check) = true := by
  refine ⟨⟨⟨?_, ?_, ?_, ?_, ?_⟩, ⟨?_, ?_, ?_, ?_, ?_, ?_, ?_, ?_⟩, trivial, ?_, ⟨?_, ?_, ?_, ?_, ?_, ?_⟩, ?_⟩, ?_⟩ <;>
    decide

theorem witness_inv_check_short : Inv shortDst ∧ contractHolds shortDst = false := by
  refine ⟨⟨⟨?_, ?_, ?_, ?_, ?_⟩, ⟨?_, ?_, ?_, ?_, ?_, ?_, ?_, ?_⟩, trivial, ?_, ⟨?_, ?_, ?_, ?_, ?_, ?_⟩, ?_⟩, ?_⟩ <;>
    decide

theorem witness_inv_faulted : Inv faulted := by
  refine ⟨⟨?_, ?_, ?_, ?_, ?_⟩, ⟨?_, ?_, ?_, ?_, ?_, ?_, ?_, ?_⟩, trivial, ?_, ⟨?_, ?_, ?_, ?_, ?_, ?_⟩, ?_⟩ <;> decide

theorem witness_inv_mid_key : Inv midKey := by
  refine ⟨⟨?_, ?_, ?_, ?_, ?_⟩, ⟨?_, ?_, ?_, ?_, ?_, ?_, ?_, ?_⟩, And.intro ?_ (And.intro ?_ ?_), ?_,
    ⟨?_, ?_, ?_, ?_, ?_, ?_⟩, ?_⟩ <;> decide +kernel

theorem witness_inv_last_key : Inv lastKey := by
  refine ⟨⟨?_, ?_, ?_, ?_, ?_⟩, ⟨?_, ?_, ?_, ?_, ?_, ?_, ?_, ?_⟩,
    And.intro ?_ (And.intro ?_ (And.intro ?_ (And.intro ?_ ?_))), ?_, ⟨?_, ?_, ?_, ?_, ?_, ?_⟩, ?_⟩ <;> decide +kernel

theorem witness_inv_last_data : Inv lastData := by
  refine ⟨⟨?_, ?_, ?_, ?_, ?_⟩, ⟨?_, ?_, ?_, ?_, ?_, ?_, ?_, ?_⟩,
    And.intro ?_ (And.intro ?_ (And.intro ?_ ?_)), ?_, ⟨?_, ?_, ?_, ?_, ?_, ?_⟩, ?_⟩ <;> decide +kernel

theorem witness_inv_retiring : Inv retiring := by
  refine ⟨⟨?_, ?_, ?_, ?_, ?_⟩, ⟨?_, ?_, ?_, ?_, ?_, ?_, ?_, ?_⟩, And.intro ?_ ?_, ?_,
    ⟨?_, ?_, ?_, ?_, ?_, ?_⟩, ?_⟩ <;> decide +kernel

/-- PhaseCodeTable, its last clause. -/
theorem witness_PhaseCodeTable :
    (busyAt .check).ph ≠ .retire ∧ microOp engine .check (busyAt .check) = .ok { busyAt .check with ph := .kbClear } :=
  ⟨by decide, rfl⟩

/-- On the machine, and on that of another engine. -/
theorem witness_StepRunsTheDecodedInstruction :
    (nextTurn (busyAt .pdIpad) = (.run (.ph 0x08), busyAt .pdIpad) ∧ decode (.ph 0x08) = .ok .pdIpad) ∧
    nextTurn countingLaunch = (.run (.ph 0x01), countingLaunch) ∧ decode (.ph 0x01) = .ok .check :=
  ⟨⟨rfl, rfl⟩, rfl, rfl⟩

theorem witness_EachTurnRunsItsInstruction :
    attached.inputs = [] ∧
    { attached with inputs := [.sequencer] }.inputs = .sequencer :: [] ∧
    { attached with inputs := [.host 0x800000001] }.inputs = .host 0x800000001 :: [] ∧
    { attached with inputs := [.poll] }.inputs = .poll :: [] ∧
    { attached with inputs := [.port 0x300 0] }.inputs = .port 0x300 0 :: [] ∧
    { attached with inputs := [.platform .reset] }.inputs = .platform .reset :: [] :=
  ⟨rfl, rfl, rfl, rfl, rfl, rfl⟩

/-- One word of each format. -/
theorem witness_PlacedWordRunsNext :
    (tableCode 40 0x800000001 = some (.ht 0x800000001) ∧ decode (.ht 0x800000001) = .ok (.start 0)) ∧
    (tableCode 8 0x14 = some (.ph 0x14) ∧ decode (.ph 0x14) = .ok .retire) ∧
    (tableCode 16 0x300 = some (.ec 0x300 0) ∧ decode (.ec 0x300 0) = .ok (.finish 0)) := by decide +kernel

theorem witness_ResetFromEveryState :
    { midKey with inputs := [.platform .reset, .sequencer] }.inputs = .platform .reset :: [.sequencer] := rfl

/-- Busy; idle with the offset at the capacity; idle with the last offset. -/
theorem witness_SpacesAreReachedOnlyWhileIdle :
    (busyAt .check).busy = true ∧ attached.busy = false ∧
    [0x6b, 0x65, 0x79].length ≤ (3 : Word32).toNat ∧
    (attached.cap .dst).toNat ≤ (64 : Word32).toNat ∧
    (63 : Word32).toNat < (attached.cap .dst).toNat ∧ Memory.wf (attached.mem .dst) := by decide

theorem witness_StartIsAcceptedOrIgnored :
    (attached.busy = false ∧ attached.fault = false) ∧ (busyAt .check).busy = true ∧ faulted.fault = true := by decide

theorem witness_LengthWritesAreDroppedWhileBusy :
    faulted.busy = false ∧ (busyAt .retire).busy = true := by decide

theorem witness_StatusTakesSixValues : Inv retiring ∧ Inv faulted := ⟨witness_inv_retiring, witness_inv_faulted⟩

theorem witness_HostIsPowerlessWhileBusy : midKey.busy = true := by decide

/-- Two states that differ in a data register and in the key's bytes. -/
theorem witness_HostSeesOnlyItsRegisters :
    hostView midKey = hostView { midKey with keyblk := some (Bytes.rep 7 128), keyMem := [(0, 1)] } ∧
      midKey ≠ { midKey with keyblk := some (Bytes.rep 7 128), keyMem := [(0, 1)] } :=
  ⟨rfl, fun h => absurd (congrArg State.Of.keyMem h) (by decide)⟩

/-- Each clause at its boundary: DST_CAP 63 and 64, KEY_LEN one above KEY_CAP and equal, DATA_LEN the same. -/
theorem witness_CheckTestsTheContract :
    shortDst.dstCap.toNat < 64 ∧
    (let s := { busyAt .check with keyLen := 4 }
     64 ≤ s.dstCap.toNat ∧ s.keyCap.toNat < s.keyLen.toNat) ∧
    (let s := { busyAt .check with dataLen := 44 }
     64 ≤ s.dstCap.toNat ∧ s.keyLen.toNat ≤ s.keyCap.toNat ∧ s.dataCap.toNat < s.dataLen.toNat) ∧
    (let s := busyAt .check
     64 ≤ s.dstCap.toNat ∧ s.keyLen.toNat ≤ s.keyCap.toNat ∧ s.dataLen.toNat ≤ s.dataCap.toNat) := by decide

/-- A contract fault and an engine command with an illegal LEN. -/
theorem witness_FaultsWriteFourFieldsOnly :
    (shortDst.ph ≠ .faulted ∧ ∃ t, exec .check shortDst = .next t ∧ t.ph = .faulted) ∧
    attached.ph ≠ .faulted ∧ ∃ t, exec (.init 1) attached = .next t ∧ t.ph = .faulted :=
  ⟨⟨by decide, _, rfl, rfl⟩, by decide, _, rfl, rfl⟩

/-- START after a fault (HT10). -/
theorem witness_FaultsAreSticky :
    let s := { faulted with inputs := [.host 0x800000001] }
    s.ph = .faulted ∧ s.fault = true ∧ noBench s.inputs = true ∧
      s.inputs.head? ≠ some (.platform .reset) ∧ step s = .next faulted :=
  ⟨rfl, rfl, rfl, by decide, rfl⟩

theorem witness_RetireLeavesTheResetState : Inv retiring ∧ retiring.ph = .retire := ⟨witness_inv_retiring, rfl⟩

/-- KEY_LEN 0 and 128. -/
theorem witness_ShortKeysAreCopied :
    (let s := { busyAt .knCopy with keyblk := some (Bytes.zeros 128), keyLen := 0, keyCap := 0 }
     s.keyblk = some (Bytes.zeros 128) ∧ s.keyLen.toNat ≤ 128 ∧ s.keyLen.toNat ≤ s.keyCap.toNat) ∧
    (let s := { busyAt .knCopy with keyblk := some (Bytes.zeros 128), keyLen := 128, keyCap := 128 }
     s.keyblk = some (Bytes.zeros 128) ∧ s.keyLen.toNat ≤ 128 ∧ s.keyLen.toNat ≤ s.keyCap.toNat) :=
  ⟨⟨rfl, by decide, by decide⟩, rfl, by decide, by decide⟩

/-- One byte is left after the block (KEY_LEN = 129), and the second block of 300 bytes. -/
theorem witness_KhMultiAbsorbsOneBlock :
    (let s := { hashing .khMulti .absorbing 0 0 with keyLen := 129, keyCap := 129 }
     s.off = some 0 ∧ s.h = some blakeInit ∧ s.ctr = some 0 ∧ s.hs = .absorbing ∧
       (0 : Word32).toNat + 128 < s.keyLen.toNat ∧ (0 : Word32).toNat + 128 ≤ s.keyCap.toNat) ∧
    midKey.off = some 128 ∧ midKey.h = some blakeInit ∧ midKey.ctr = some 128 ∧ midKey.hs = .absorbing ∧
      (128 : Word32).toNat + 128 < midKey.keyLen.toNat ∧ (128 : Word32).toNat + 128 ≤ midKey.keyCap.toNat :=
  ⟨⟨rfl, rfl, rfl, rfl, by decide, by decide⟩, rfl, rfl, rfl, rfl, by decide, by decide⟩

/-- A last chunk of one byte and of 128 bytes. -/
theorem witness_KhLastAbsorbsTheLastChunk :
    (let s := { hashing .khLast .absorbing 128 128 with keyLen := 129, keyCap := 129 }
     s.off = some 128 ∧ s.h = some blakeInit ∧ s.ctr = some 128 ∧ s.hs = .absorbing ∧
       (128 : Word32).toNat < s.keyLen.toNat ∧ s.keyLen.toNat ≤ (128 : Word32).toNat + 128 ∧
       s.keyLen.toNat ≤ s.keyCap.toNat) ∧
    lastKey.off = some 128 ∧ lastKey.h = some blakeInit ∧ lastKey.ctr = some 128 ∧ lastKey.hs = .absorbing ∧
      (128 : Word32).toNat < lastKey.keyLen.toNat ∧ lastKey.keyLen.toNat ≤ (128 : Word32).toNat + 128 ∧
      lastKey.keyLen.toNat ≤ lastKey.keyCap.toNat :=
  ⟨⟨rfl, rfl, rfl, rfl, by decide, by decide, by decide⟩, rfl, rfl, rfl, rfl, by decide, by decide, by decide⟩

theorem witness_FinishPhasesExtractTheDigest :
    endKey.h = some blakeInit ∧ endKey.ctr = some 129 ∧ endKey.hs = .final ∧
      endKey.keyblk = some (Bytes.zeros 128) := ⟨rfl, rfl, rfl, rfl⟩

/-- PadPhasesXorTheKeyBlock and PadsDifferFromTheKeyBlockByTheirConstants. -/
theorem witness_PadPhasesXorTheKeyBlock :
    { busyAt .pdIpad with keyblk := some (Bytes.rep 0xff 128) }.keyblk = some (Bytes.rep 0xff 128) := rfl

theorem witness_PadsDifferFromTheKeyBlockByTheirConstants :
    { busyAt .pdIpad with keyblk := some (Bytes.rep 0xff 128) }.keyblk = some (Bytes.rep 0xff 128) := rfl

/-- One byte is left after the block (DATA_LEN = 129), and the second block of 300 bytes. -/
theorem witness_InMsgMultiAbsorbsOneBlock :
    (let s := { hashing .inMsgMulti .absorbing 128 0 with dataLen := 129, dataCap := 129 }
     s.off = some 0 ∧ s.h = some blakeInit ∧ s.ctr = some 128 ∧ s.hs = .absorbing ∧
       (0 : Word32).toNat + 128 < s.dataLen.toNat ∧ (0 : Word32).toNat + 128 ≤ s.dataCap.toNat) ∧
    (let s := { hashing .inMsgMulti .absorbing 256 128 with dataLen := 300, dataCap := 300 }
     s.off = some 128 ∧ s.h = some blakeInit ∧ s.ctr = some 256 ∧ s.hs = .absorbing ∧
       (128 : Word32).toNat + 128 < s.dataLen.toNat ∧ (128 : Word32).toNat + 128 ≤ s.dataCap.toNat) :=
  ⟨⟨rfl, rfl, rfl, rfl, by decide, by decide⟩, rfl, rfl, rfl, rfl, by decide, by decide⟩

/-- A last chunk of one byte and of 128 bytes. -/
theorem witness_InMsgLastAbsorbsTheLastChunk :
    (let s := { hashing .inMsgLast .absorbing 128 0 with dataLen := 1, dataCap := 1 }
     s.off = some 0 ∧ s.h = some blakeInit ∧ s.ctr = some 128 ∧ s.hs = .absorbing ∧
       (0 : Word32).toNat < s.dataLen.toNat ∧ s.dataLen.toNat ≤ (0 : Word32).toNat + 128 ∧
       s.dataLen.toNat ≤ s.dataCap.toNat) ∧
    (let s := { hashing .inMsgLast .absorbing 128 0 with dataLen := 128, dataCap := 128 }
     s.off = some 0 ∧ s.h = some blakeInit ∧ s.ctr = some 128 ∧ s.hs = .absorbing ∧
       (0 : Word32).toNat < s.dataLen.toNat ∧ s.dataLen.toNat ≤ (0 : Word32).toNat + 128 ∧
       s.dataLen.toNat ≤ s.dataCap.toNat) :=
  ⟨⟨rfl, rfl, rfl, rfl, by decide, by decide, by decide⟩, rfl, rfl, rfl, rfl, by decide, by decide, by decide⟩

/-- Every clause: the pads and the digest held, and OFF at 0 with DATA_LEN 43 and at DATA_LEN itself. -/
theorem witness_RegisterChunksAreAbsorbed :
    (let s := withPads { hashing .outPadMulti .absorbing 0 0 with idig := some (Bytes.zeros 64) }
     s.h = some blakeInit ∧ s.ctr = some 0 ∧ s.hs = .absorbing ∧ s.ipad = some (Bytes.rep 0x36 128) ∧
       s.opad = some (Bytes.rep 0x5c 128) ∧ s.idig = some (Bytes.zeros 64) ∧ s.off = some 0 ∧
       (0 : Word32).toNat ≤ s.dataLen.toNat) ∧
    (let s := withPads (hashing .inPadMulti .absorbing 0 43)
     s.h = some blakeInit ∧ s.ctr = some 0 ∧ s.hs = .absorbing ∧ s.ipad = some (Bytes.rep 0x36 128) ∧
       s.off = some 43 ∧ (43 : Word32).toNat ≤ s.dataLen.toNat) :=
  ⟨⟨rfl, rfl, rfl, rfl, rfl, rfl, rfl, by decide⟩, rfl, rfl, rfl, rfl, rfl, by decide⟩

/-- DST_CAP exactly 64. -/
theorem witness_OutFinishStoresTheTag :
    endOuter.h = some blakeInit ∧ endOuter.ctr = some 192 ∧ endOuter.hs = .final ∧ 64 ≤ endOuter.dstCap.toNat :=
  ⟨rfl, rfl, rfl, by decide⟩

/-- The same, and one byte above the tag already in DST. -/
theorem witness_OutFinishWritesSixtyFourBytes :
    let s := { endOuter with dstCap := 80, dstMem := [(64, 0xEE)] }
    s.h = some blakeInit ∧ s.ctr = some 192 ∧ s.hs = .final ∧ 64 ≤ s.dstCap.toNat ∧ Memory.wf s.dstMem :=
  ⟨rfl, rfl, rfl, by decide, by decide⟩

/-- Both branches: ready to absorb, and after the last chunk. -/
theorem witness_EngineCommandsUpdateTheHashState :
    (let s := hashing .idle .absorbing 0 0
     s.h = some blakeInit ∧ s.ctr = some 0 ∧ s.hs = .absorbing) ∧
    (let s := hashing .idle .final 3 0
     s.h = some blakeInit ∧ s.ctr = some 3 ∧ s.hs ≠ .absorbing) := ⟨⟨rfl, rfl, rfl⟩, rfl, rfl, by decide⟩

theorem witness_FinishCommandAnswersTheDigest :
    let s := { hashing .idle .final 3 0 with h := some abcState }
    s.h = some abcState ∧ s.ctr = some 3 ∧ s.hs = .final := ⟨rfl, rfl, rfl⟩

/-- Each clause, by the life cycle and by the LEN next to the legal one. -/
theorem witness_PortRejectsIllegalCommands :
    (1 : Byte) ≠ 0 ∧
    (attached.hs ≠ .absorbing ∧ (127 : Byte) ≠ 128) ∧
    (endOuter.hs ≠ .absorbing ∧ 128 < (129 : Byte).toNat) ∧
    (midKey.hs ≠ .final ∧ (1 : Byte) ≠ 0) := by decide

/-- One phase of each command; the UPDATE_LAST is KN5's, 128 bytes long at most. -/
theorem witness_MicroOpsIssueTheirEngineCommand :
    (issuedHeader .khInit (busyAt .khInit) = some 0x000 ∧ ∃ t, microOp engine .khInit (busyAt .khInit) = .ok t) ∧
    (issuedHeader .khMulti midKey = some 0x180 ∧ ∃ t, microOp engine .khMulti midKey = .ok t) ∧
    (issuedHeader .khLast lastKey = some 0x280 ∧ ∃ t, microOp engine .khLast lastKey = .ok t) ∧
    (issuedHeader .inMsgLast lastData = some 0x22B ∧ ∃ t, microOp engine .inMsgLast lastData = .ok t) ∧
    issuedHeader .khFinish endKey = some 0x300 ∧ ∃ t, microOp engine .khFinish endKey = .ok t :=
  ⟨⟨rfl, _, rfl⟩, ⟨rfl, _, rfl⟩, ⟨rfl, _, rfl⟩, ⟨rfl, _, rfl⟩, rfl, _, rfl⟩

/-- Ready, and not: no value in a register, a read one byte past the capacity, the wrong life cycle. -/
theorem witness_MicroOpsAssertExactlyWhenNotReady :
    Phase.khMulti ≠ .check ∧ microOpReady .khMulti midKey = true ∧ microOpReady .pdIpad attached = false ∧
      microOpReady .khMulti { midKey with keyCap := 255 } = false ∧ microOpReady .outFinish midKey = false := by
  decide +kernel

theorem witness_RunsNeverAssert : Inv midKey ∧ Inv lastData := ⟨witness_inv_mid_key, witness_inv_last_data⟩

theorem witness_IssuedCommandsAreLegal :
    Inv lastKey ∧ issuedHeader lastKey.ph lastKey = some 0x280 := ⟨witness_inv_last_key, rfl⟩

/-- The one instruction that writes, and one that does not. -/
theorem witness_OnlyOutFinishWritesMemory :
    (∃ t, exec .outFinish endOuter = .next t) ∧ ∃ t, exec .retire retiring = .next t := ⟨⟨_, rfl⟩, _, rfl⟩

/-- CHECK with and without a fault, and a phase after CHECK. -/
theorem witness_SuccessorTableHolds :
    (Inv shortDst ∧ shortDst.ph = .check ∧ contractHolds shortDst = false ∧
      ∃ t, exec shortDst.ph.instr shortDst = .next t) ∧
    (Inv (busyAt .check) ∧ contractHolds (busyAt .check) = true ∧
      ∃ t, exec (busyAt .check).ph.instr (busyAt .check) = .next t) ∧
    (Inv midKey ∧ midKey.ph ≠ .idle ∧ midKey.ph ≠ .faulted ∧ midKey.ph ≠ .check ∧
      ∃ t, exec midKey.ph.instr midKey = .next t) :=
  ⟨⟨witness_inv_check_short.1, rfl, witness_inv_check_short.2, _, rfl⟩,
    ⟨witness_inv_check.1, witness_inv_check.2, _, rfl⟩,
    witness_inv_mid_key, by decide, by decide, by decide, _, rfl⟩

/-- Two keys and two hash states, and two engines' state types. -/
theorem witness_ControlFlowIgnoresBytes :
    (skeleton midKey = skeleton { midKey with h := some abcState, keyMem := [(0, 1)] } ∧
      midKey ≠ { midKey with h := some abcState, keyMem := [(0, 1)] }) ∧
    skeleton (busyAt .check) = skeleton countingLaunch :=
  ⟨⟨rfl, fun h => absurd (congrArg State.Of.keyMem h) (by decide)⟩, rfl⟩

theorem witness_RunsWithoutHostErrorsAreSafe :
    ∀ a, Input.platform a ∈ { midKey with inputs := [.host 0x800000001, .platform .reset] }.inputs → a = .reset := by
  intro a h
  simpa using h

theorem witness_EveryStepKeepsTheInvariant :
    (Inv midKey ∧ ∃ t, step midKey = .next t) ∧ Inv retiring ∧ ∃ t, step retiring = .next t :=
  ⟨⟨witness_inv_mid_key, _, rfl⟩, witness_inv_retiring, _, rfl⟩

/-- With a byte attached by the platform. -/
theorem witness_EveryStepKeepsMemoryCanonical :
    let s := { attached with inputs := [.platform (.hostWrite .dst 63 0xEE)] }
    MemoryInv s ∧ ∃ t, step s = .next t :=
  ⟨by refine ⟨?_, ?_, ?_, ?_, ?_, ?_⟩ <;> decide, _, rfl⟩

theorem witness_CounterHighHalfStaysZero : Inv midKey ∧ midKey.ctr = some 128 := ⟨witness_inv_mid_key, rfl⟩

/-- The boundary keys of R91: 0, 128 and 129 bytes. -/
theorem witness_NormalizerComputesTheKeyBlock :
    [0, 128, 129].all (fun n => (withKey n (busyAt .kbClear)).ph == .kbClear &&
      decide ((withKey n (busyAt .kbClear)).keyLen.toNat ≤ (withKey n (busyAt .kbClear)).keyCap.toNat)) = true := by
  decide +kernel

/-- A key of 3 bytes and a message of 43 (HM2's lengths) on two engines' state types, and the empty key and message
(HM1's). -/
theorem witness_ComputeWritesTheTagForEveryEngine :
    ((busyAt .check).ph = .check ∧ contractHolds (busyAt .check) = true) ∧
    (countingLaunch.ph = .check ∧ contractHolds countingLaunch = true) ∧
    (let s := { busyAt .check with keyLen := 0, dataLen := 0 }
     s.ph = .check ∧ contractHolds s = true) := by decide

theorem witness_ComputeWritesTheTag :
    ((busyAt .check).ph = .check ∧ (busyAt .check).inputs = [] ∧ contractHolds (busyAt .check) = true) ∧
      shortDst.ph = .check ∧ shortDst.inputs = [] ∧ contractHolds shortDst = false := by decide

/-- A read of STATUS and one turn of the sequencer, at CHECK. -/
theorem witness_InterleavingCannotBeSeen :
    let turns : List Input := [.host 0x100000000, .sequencer]
    let s := { busyAt .check with inputs := turns }
    (∀ x ∈ turns, x = .sequencer ∨ ∃ w, x = .host w) ∧ s.inputs = turns ∧
      (∀ j, j ≤ turns.count .sequencer → ∃ v, seqRun engine j s = .ok v ∧ v.busy = true) ∧
      seqRun engine (turns.count .sequencer) s = .ok { s with ph := .kbClear } := by
  refine ⟨?_, rfl, ?_, rfl⟩
  · simp
  · intro j hj
    have h : j = 0 ∨ j = 1 := by
      have : j ≤ 1 := hj
      omega
    rcases h with rfl | rfl
    · exact ⟨_, rfl, rfl⟩
    · exact ⟨_, rfl, rfl⟩

/-- The state before a host's COMPUTE of 3 and 43 bytes, and of a message one byte too long. -/
theorem witness_ComputeThroughTheRegisterFile :
    (let s := { attached with inputs := pseudoCompute 3 43 }
     s.busy = false ∧ s.fault = false ∧ s.faultCode = 0 ∧ s.inputs = pseudoCompute 3 43 ∧
       contractHolds { s with keyLen := 3, dataLen := 43 } = true) ∧
    (let s := { attached with inputs := pseudoCompute 3 44 }
     s.busy = false ∧ s.fault = false ∧ s.faultCode = 0 ∧ s.inputs = pseudoCompute 3 44 ∧
       contractHolds { s with keyLen := 3, dataLen := 44 } = false) :=
  ⟨⟨rfl, rfl, rfl, rfl, by decide⟩, rfl, rfl, rfl, rfl, by decide⟩

end Sys2Proof.Tests
end

/-! SUPPORT. What a step can do, said once for its four kinds of turn; the spaces, which every step keeps canonical; the
platform's reach; words placed as the next turn. -/

namespace Sys2Proof.Machine

variable {σ : Type}

/-! ### Turns and steps -/

@[simp] theorem decode_phase_code (p : Phase) : decode (.ph p.code) = .ok p.instr := by
  cases p <;> rfl

/-- A turn that runs a code of the instruction `i` is the meaning of `i`. -/
theorem stepWith_of_run {run : Instr → State.Of σ → Result.Of σ} {s t : State.Of σ} {c : Code} {i : Instr}
    (hn : nextTurn s = (.run c, t)) (hd : decode c = .ok i) : stepWith run s = run i t := by
  simp only [stepWith, hn, hd]

theorem stepWith_of_act {run : Instr → State.Of σ → Result.Of σ} {s t : State.Of σ} {a : PlatformAction}
    (hn : nextTurn s = (.act a, t)) : stepWith run s = platformAct a t := by
  simp only [stepWith, hn]

/-- What a step can leave: the effect of its turn on the state with the rest `l` of the schedule. A bench's turn comes
from a schedule that has one (log 2); no other turn adds one. -/
inductive StepEffect (E : Engine σ) (s t : State.Of σ) : Prop
  | sequencer (l : List Input) (hl : noBench s.inputs = true → noBench l = true)
      (h : PhaseEffect E (s.setInputs l) s.ph t)
  | host (l : List Input) (hl : noBench s.inputs = true → noBench l = true)
      (h : HostEffect (s.setInputs l) t)
  | bench (l : List Input) (hl : noBench s.inputs = false) (h : PortEffect (s.setInputs l) t)
  | platform (a : PlatformAction) (l : List Input) (hl : noBench s.inputs = true → noBench l = true)
      (h : platformAct a (s.setInputs l) = .next t)

theorem PhaseEffect.of_exec {E : Engine σ} {p : Phase} {s t : State.Of σ} (h : execFor E p.instr s = .next t) :
    PhaseEffect E s p t := by
  obtain ⟨u, e, hu⟩ := execFor_phase_effect E p s
  cases h.symm.trans e; exact hu

theorem HostEffect.of_exec {E : Engine σ} {w : BitVec 36} {s t : State.Of σ}
    (h : execFor E (decodeHt w) s = .next t) : HostEffect s t := by
  obtain ⟨u, e, hu⟩ := execFor_decodeHt E w s
  cases h.symm.trans e; exact hu

theorem PortEffect.of_exec {E : Engine σ} {hdr : BitVec 10} {blk : BitVec 1024} {s t : State.Of σ}
    (h : execFor E (decodeEc hdr blk) s = .next t) : PortEffect s t := by
  obtain ⟨u, e, hu⟩ := execFor_decodeEc E hdr blk s
  cases h.symm.trans e; exact hu

/-- A step that answers a next state has the effect of one of the four kinds of turn. -/
theorem StepEffect.of_step {E : Engine σ} {s t : State.Of σ} (h : stepFor E s = .next t) : StepEffect E s t := by
  unfold stepFor at h
  cases hi : s.inputs with
  | nil =>
    have hn : nextTurn s = (.run (.ph s.ph.code), s) := by rw [nextTurn, hi]
    rw [stepWith_of_run hn (decode_phase_code _)] at h
    exact .sequencer s.inputs id (.of_exec h)
  | cons x rest =>
    have hr : noBench s.inputs = true → noBench rest = true := by
      rw [hi]; exact fun hb => (Bool.and_eq_true_iff.mp hb).2
    cases x with
    | sequencer =>
      have hn : nextTurn s = (.run (.ph s.ph.code), s.setInputs rest) := by rw [nextTurn, hi]
      rw [stepWith_of_run hn (decode_phase_code _)] at h
      exact .sequencer rest hr (.of_exec h)
    | host w =>
      have hn : nextTurn s = (.run (.ht w), s.setInputs rest) := by rw [nextTurn, hi]
      rw [stepWith_of_run hn rfl] at h
      exact .host rest hr (.of_exec h)
    | poll =>
      have hn : nextTurn s = (.run (.ht readStatus), s.setInputs
        (if s.busy then .sequencer :: .poll :: rest else rest)) := by rw [nextTurn, hi]
      rw [stepWith_of_run hn rfl] at h
      refine .host _ (fun hb => ?_) (.of_exec h)
      split
      · exact hr hb
      · exact hr hb
    | port hdr blk =>
      have hn : nextTurn s = (.run (.ec hdr blk), s.setInputs rest) := by rw [nextTurn, hi]
      rw [stepWith_of_run hn rfl] at h
      exact .bench rest (by rw [hi]; rfl) (.of_exec h)
    | platform a =>
      have hn : nextTurn s = (.act a, s.setInputs rest) := by rw [nextTurn, hi]
      rw [stepWith_of_act hn] at h
      exact .platform a rest hr h

/-! ### The platform's reach (20_memory R42) -/

theorem attach_refused {s : State.Of σ} (hb : s.busy = true) (sp : Space) (cap : Word32) (bytes : List Byte) :
    platformAct (.attach sp cap bytes) s = .refused .hostDutyBroken := by
  simp [platformAct, hb]

theorem hostWrite_refused {s : State.Of σ} (hb : s.busy = true) (sp : Space) (off : Word32) (b : Byte) :
    platformAct (.hostWrite sp off b) s = .refused .hostDutyBroken := by
  simp [platformAct, hb]

theorem attach_ok {s : State.Of σ} (hb : s.busy = false) (sp : Space) (cap : Word32) (bytes : List Byte) :
    platformAct (.attach sp cap bytes) s =
      .next (s.setSpace sp cap (Memory.writeBytes [] 0 (bytes.take cap.toNat))) := by
  simp [platformAct, hb]

theorem hostWrite_ok {s : State.Of σ} (hb : s.busy = false) {sp : Space} {off : Word32}
    (h : off.toNat < (s.cap sp).toNat) (b : Byte) : platformAct (.hostWrite sp off b) s =
      .next (s.setSpace sp (s.cap sp) (Memory.write (s.mem sp) off.toNat b)) := by
  simp [platformAct, hb, BitVec.lt_def, h]

theorem hostWrite_noSuchByte {s : State.Of σ} (hb : s.busy = false) {sp : Space} {off : Word32}
    (h : (s.cap sp).toNat ≤ off.toNat) (b : Byte) :
    platformAct (.hostWrite sp off b) s = .fault .noSuchByte := by
  simp [platformAct, hb, BitVec.lt_def, Nat.not_lt.mpr h]

/-! ### The spaces -/

theorem memoryInv_iff {s : State.Of σ} :
    MemoryInv s ↔ ∀ sp, Memory.wf (s.mem sp) ∧ Memory.below (s.mem sp) (s.cap sp).toNat := by
  constructor
  · intro h sp
    cases sp with
    | key => exact ⟨h.key_wf, h.key_below⟩
    | data => exact ⟨h.data_wf, h.data_below⟩
    | dst => exact ⟨h.dst_wf, h.dst_below⟩
  · intro h
    exact ⟨(h .key).1, (h .data).1, (h .dst).1, (h .key).2, (h .data).2, (h .dst).2⟩

/-- The canonical form is a matter of the spaces and the capacities. -/
theorem MemoryInv.congr {s t : State.Of σ} (h : MemoryInv s)
    (hm : t.keyMem = s.keyMem ∧ t.dataMem = s.dataMem ∧ t.dstMem = s.dstMem)
    (hc : t.keyCap = s.keyCap ∧ t.dataCap = s.dataCap ∧ t.dstCap = s.dstCap) : MemoryInv t := by
  obtain ⟨hk, hd, ht⟩ := hm
  obtain ⟨ck, cd, ct⟩ := hc
  constructor
  · rw [hk]; exact h.key_wf
  · rw [hd]; exact h.data_wf
  · rw [ht]; exact h.dst_wf
  · rw [hk, ck]; exact h.key_below
  · rw [hd, cd]; exact h.data_below
  · rw [ht, ct]; exact h.dst_below

theorem MemoryInv.setSpace {s : State.Of σ} (h : MemoryInv s) {sp : Space} {cap : Word32} {m : Memory}
    (hw : Memory.wf m) (hb : Memory.below m cap.toNat) : MemoryInv (s.setSpace sp cap m) := by
  refine memoryInv_iff.mpr fun sp' => ?_
  by_cases e : sp' = sp
  · rw [e, setSpace_mem_same, setSpace_cap_same]; exact ⟨hw, hb⟩
  · rw [setSpace_mem_other s e, setSpace_cap_other s e]; exact memoryInv_iff.mp h sp'

/-- A platform action that completes is a reset, or changes one space while BUSY = 0 (20_memory R42), to bytes in
canonical form and below the capacity where they were so before. -/
theorem platformAct_effect {a : PlatformAction} {s t : State.Of σ} (h : platformAct a s = .next t) :
    t = takeReset s ∨ s.busy = false ∧ ∃ sp cap m, t = s.setSpace sp cap m ∧
      (MemoryInv s → Memory.wf m ∧ Memory.below m cap.toNat) := by
  cases a with
  | reset => cases h; exact .inl rfl
  | attach sp cap bytes =>
    cases hb : s.busy with
    | true => rw [attach_refused hb] at h; cases h
    | false =>
      cases (attach_ok hb sp cap bytes).symm.trans h
      refine .inr ⟨rfl, sp, cap, _, rfl, fun _ => ⟨Memory.writeBytes_wf Memory.nil_wf _ _, ?_⟩⟩
      exact Memory.writeBytes_below (Memory.nil_below _) _ _ (by simp)
  | hostWrite sp off b =>
    cases hb : s.busy with
    | true => rw [hostWrite_refused hb] at h; cases h
    | false =>
      rcases Nat.lt_or_ge off.toNat (s.cap sp).toNat with hlt | hge
      · cases (hostWrite_ok hb hlt b).symm.trans h
        refine .inr ⟨rfl, sp, _, _, rfl, fun hm => ?_⟩
        obtain ⟨hw, hbelow⟩ := memoryInv_iff.mp hm sp
        exact ⟨Memory.write_wf hw _ _, Memory.write_below hbelow hlt b⟩
      · rw [hostWrite_noSuchByte hb hge] at h; cases h

theorem MemoryInv.platformAct {a : PlatformAction} {s t : State.Of σ} (hm : MemoryInv s)
    (h : platformAct a s = .next t) : MemoryInv t := by
  obtain rfl | ⟨_, sp, cap, m, rfl, hw⟩ := platformAct_effect h
  · exact hm.congr ⟨rfl, rfl, rfl⟩ ⟨rfl, rfl, rfl⟩
  · exact hm.setSpace (hw hm).1 (hw hm).2

/-- Of the micro-operations only OUT_FINISH writes a space: a digest's bytes into DST, in bounds (20_memory R44). -/
theorem MicroOpEffect.memoryInv {E : Engine σ} {s t : State.Of σ} {p : Phase} (h : MicroOpEffect E s p t)
    (hm : MemoryInv s) : MemoryInv t := by
  cases h with
  | outFinish h c _ _ _ hd =>
    have hlen : 0 + (E.finish h c).toList.length ≤ s.dstCap.toNat := by
      rw [Bytes.toList_length]; omega
    have hdst := hm.setSpace (sp := .dst) (cap := s.dstCap) (Memory.writeBytes_wf hm.dst_wf 0 _)
      (Memory.writeBytes_below hm.dst_below 0 _ hlen)
    exact hdst.congr ⟨rfl, rfl, rfl⟩ ⟨rfl, rfl, rfl⟩
  | _ => exact hm.congr (by simp) (by simp)

theorem PhaseEffect.memoryInv {E : Engine σ} {s t : State.Of σ} {p : Phase} (h : PhaseEffect E s p t)
    (hm : MemoryInv s) : MemoryInv t := by
  cases h with
  | done _ h => exact h.memoryInv hm
  | fault c => exact hm.congr (by simp [raiseFault]) (by simp [raiseFault])

theorem HostEffect.memoryInv {s t : State.Of σ} (h : HostEffect s t) (hm : MemoryInv s) : MemoryInv t := by
  cases h <;> exact hm.congr (by simp) (by simp)

theorem PortEffect.memoryInv {s t : State.Of σ} (h : PortEffect s t) (hm : MemoryInv s) : MemoryInv t := by
  cases h <;> exact hm.congr (by simp [raiseFault]) (by simp [raiseFault])

theorem StepEffect.memoryInv {E : Engine σ} {s t : State.Of σ} (h : StepEffect E s t) (hm : MemoryInv s) :
    MemoryInv t := by
  have hs (l : List Input) : MemoryInv (s.setInputs l) := hm.congr (by simp) (by simp)
  cases h with
  | sequencer l _ h => exact h.memoryInv (hs l)
  | host l _ h => exact h.memoryInv (hs l)
  | bench l _ h => exact h.memoryInv (hs l)
  | platform a l _ h => exact (hs l).platformAct h

/-- Settles O54: every kind of turn keeps the canonical form, OUT_FINISH's store included. -/
theorem everyStepKeepsMemoryCanonical : Obligations.EveryStepKeepsMemoryCanonical := by
  intro s t hm h
  rw [step_eq_stepFor] at h
  exact (StepEffect.of_step h).memoryInv hm

/-- Settles O11: by the three cases of a platform action on a space, and read after write. -/
theorem spacesAreReachedOnlyWhileIdle : Obligations.SpacesAreReachedOnlyWhileIdle := by
  intro s sp cap off bytes b
  refine ⟨fun hb => ⟨attach_refused hb .., hostWrite_refused hb ..⟩,
    fun hb => ⟨?_, (hostWrite_noSuchByte hb · b), fun hlt hw => ?_⟩⟩
  · refine ⟨_, attach_ok hb sp cap bytes, setSpace_cap_same .., ?_, fun hlen => ?_,
      fun sp' hne => ⟨setSpace_cap_other s hne _ _, setSpace_mem_other s hne _ _⟩⟩
    · rw [setSpace_mem_same]; exact Memory.writeBytes_wf Memory.nil_wf _ _
    · rw [setSpace_mem_same, List.take_of_length_le hlen]
      exact Memory.readBytes_writeBytes Memory.nil_wf 0 bytes
  · refine ⟨_, hostWrite_ok hb hlt b, ?_, fun a ha => ?_, fun sp' => ?_,
      fun sp' hne => setSpace_mem_other s hne _ _⟩
    · rw [setSpace_mem_same]; exact Memory.read_write_same hw _ _
    · rw [setSpace_mem_same]; exact Memory.read_write_other b ha
    · by_cases e : sp' = sp
      · rw [e, setSpace_cap_same]
      · exact setSpace_cap_other s e _ _

/-! ### Placed words (log 14) -/

/-- A code of format PH decodes to the row of the phase it is the code of (30_encoding R63, R68). -/
theorem decodePh_eq_ok {c : BitVec 5} {i : Instr} (h : decodePh c = .ok i) :
    ∃ p, Phase.ofCode c = some p ∧ p.instr = i := by
  have table : ∀ c : BitVec 5, (decodePh c).toOption = (Phase.ofCode c).map Phase.instr := by decide
  have hc : (Phase.ofCode c).map Phase.instr = some i := by rw [← table, h]; rfl
  exact Option.map_eq_some_iff.mp hc

theorem decodeTableWord_eq {nbits w : Nat} {c : Code} {i : Instr} (hc : tableCode nbits w = some c)
    (hd : decode c = .ok i) : decodeTableWord nbits w = some i := by
  simp only [decodeTableWord, hc, hd]; rfl

theorem withFetchWord_eq {s : State} {nbits w : Nat} {c : Code} (hc : tableCode nbits w = some c) :
    s.withFetchWord nbits w = placeCode c s := by
  rw [State.withFetchWord, hc]

/-- A host transaction or an engine command placed as the next turn runs on the state as it is. -/
theorem step_placeCode_turn {s : State} {c : Code} {i : Instr} (hf : c.format = .ht ∨ c.format = .ec)
    (hd : decode c = .ok i) : step (placeCode c s) = exec i s := by
  cases c with
  | ht w => exact stepWith_of_run (t := s) rfl hd
  | ec hdr blk => exact stepWith_of_run (t := s) rfl hd
  | ph c => simp [Code.format] at hf

/-- A phase placed in `PH` runs as the sequencer's next turn. -/
theorem step_placeCode_phase {s : State} {c : BitVec 5} {p : Phase} (hp : Phase.ofCode c = some p) :
    step (placeCode (.ph c) s) = exec p.instr (s.atPhase p) := by
  refine stepWith_of_run (c := .ph p.code) ?_ (decode_phase_code p)
  simp only [placeCode, hp]; rfl

/-- Settles O9: by the format of the placed code. -/
theorem placedWordRunsNext : Obligations.PlacedWordRunsNext := by
  intro s nbits w c i hc hd
  refine ⟨decodeTableWord_eq hc hd, fun hf => ?_, fun hf => ?_⟩
  · rw [withFetchWord_eq hc, step_placeCode_turn hf hd]
  · cases c with
    | ph c =>
      obtain ⟨p, hp, rfl⟩ := decodePh_eq_ok hd
      exact ⟨p, rfl, by rw [withFetchWord_eq hc, step_placeCode_phase hp]; rfl⟩
    | ht | ec => cases hf

end Sys2Proof.Machine

/-! SUPPORT. The invariant of a run: its parts phase by phase, and that every effect keeps it. -/

namespace Sys2Proof.Machine

variable {σ : Type}

/-! ### Status -/

/-- A phase is one of the two resting phases or names a micro-operation (10_state R20). -/
theorem Phase.idle_or_faulted_or_enabled (p : Phase) : p = .idle ∨ p = .faulted ∨ p.enabled = true := by
  cases p <;> decide

theorem Phase.enabled_ne {p : Phase} (h : p.enabled = true) : p ≠ .idle ∧ p ≠ .faulted := by
  constructor <;> rintro rfl <;> exact absurd h (by decide)

theorem statusInv_idle {s : State.Of σ} (hp : s.ph = .idle) :
    StatusInv s ↔ s.busy = false ∧ s.fault = false ∧ s.faultCode = 0 := by
  constructor
  · intro h
    exact ⟨by rw [h.busy_eq, hp]; rfl, by simpa [hp] using h.fault_iff, h.code_zero (by simp [hp])⟩
  · rintro ⟨hb, hf, hc⟩
    exact ⟨by rw [hb, hp]; rfl, by simp [hf, hp], fun _ => hp, fun _ => hc, by simp [hp]⟩

theorem statusInv_faulted {s : State.Of σ} (hp : s.ph = .faulted) :
    StatusInv s ↔ s.busy = false ∧ s.done = false ∧ s.fault = true ∧
      (s.faultCode = 1 ∨ s.faultCode = 2 ∨ s.faultCode = 3) := by
  constructor
  · intro h
    exact ⟨by rw [h.busy_eq, hp]; rfl, by simpa [hp] using h.done_idle, h.fault_iff.mpr hp, h.code_contract hp⟩
  · rintro ⟨hb, hd, hf, hc⟩
    exact ⟨by rw [hb, hp]; rfl, by simp [hf, hp], by simp [hd], by simp [hp], fun _ => hc⟩

theorem statusInv_enabled {s : State.Of σ} (hp : s.ph.enabled = true) :
    StatusInv s ↔ s.busy = true ∧ s.done = false ∧ s.fault = false ∧ s.faultCode = 0 := by
  obtain ⟨hi, hf⟩ := Phase.enabled_ne hp
  constructor
  · intro h
    exact ⟨h.busy_eq.trans hp, by simpa [hi] using h.done_idle, by simpa [hf] using h.fault_iff, h.code_zero hf⟩
  · rintro ⟨hb, hd, hfl, hc⟩
    exact ⟨hb.trans hp.symm, by simp [hfl, hf], by simp [hd], fun _ => hc, fun e => absurd e hf⟩

theorem StatusInv.congr {s t : State.Of σ} (h : StatusInv s)
    (ht : t.ph = s.ph ∧ t.busy = s.busy ∧ t.done = s.done ∧ t.fault = s.fault ∧ t.faultCode = s.faultCode) :
    StatusInv t := by
  obtain ⟨hp, hb, hd, hf, hc⟩ := ht
  constructor
  · rw [hb, hp]; exact h.busy_eq
  · rw [hf, hp]; exact h.fault_iff
  · rw [hd, hp]; exact h.done_idle
  · rw [hp, hc]; exact h.code_zero
  · rw [hp, hc]; exact h.code_contract

/-- In a run BUSY = 0 says that the block rests (10_state R20). -/
theorem StatusInv.rests {s : State.Of σ} (h : StatusInv s) (hb : s.busy = false) :
    s.ph = .idle ∨ s.ph = .faulted := by
  rcases s.ph.idle_or_faulted_or_enabled with hp | hp | hp
  · exact .inl hp
  · exact .inr hp
  · rw [h.busy_eq, hp] at hb; cases hb

/-- Settles O17: by the kind of phase, whose status fields the invariant fixes. -/
theorem statusTakesSixValues : Obligations.StatusTakesSixValues := by
  intro s h
  rcases s.ph.idle_or_faulted_or_enabled with hp | hp | hp
  · obtain ⟨hb, hf, hc⟩ := (statusInv_idle hp).mp h.status
    cases hd : s.done <;> simp [statusWord, hb, hd, hf, hc]
  · obtain ⟨hb, hd, hf, hc⟩ := (statusInv_faulted hp).mp h.status
    rcases hc with hc | hc | hc <;> simp [statusWord, hb, hd, hf, hc]
  · obtain ⟨hb, hd, hf, hc⟩ := (statusInv_enabled hp).mp h.status
    simp [statusWord, hb, hd, hf, hc]

theorem StatusInv.not_pastCheck {s : State.Of σ} (h : StatusInv s) (hb : s.busy = false) :
    pastCheck s.ph = false := by
  rcases h.rests hb with hp | hp <;> rw [hp] <;> rfl

/-! ### Before KB_CLEAR and after RETIRE -/

theorem eq_none_of_isSome {α : Type} {o : Option α} {b : Bool} (h : o.isSome = b) (hb : b = false) : o = none := by
  simpa using h.trans hb

/-- No data register holds a value (10_state R33). -/
def HoldsNothing (s : State.Of σ) : Prop :=
  s.keyblk = none ∧ s.ipad = none ∧ s.opad = none ∧ s.idig = none ∧ s.h = none ∧ s.hs = .empty ∧
    s.ctr = none ∧ s.off = none

theorem heldInv_iff_holdsNothing {s : State.Of σ} (hp : pastCheck s.ph = false) :
    HeldInv s ↔ HoldsNothing s := by
  have none_held : keyblkHeld s.ph = false ∧ ipadHeld s.ph = false ∧ opadHeld s.ph = false ∧
      idigHeld s.ph = false ∧ lifeAt s.ph = .empty ∧ ∀ b, countersHeld s.ph b = false := by
    revert hp; cases s.ph <;> decide
  obtain ⟨hk, hi, ho, hd, hl, hc⟩ := none_held
  constructor
  · intro h
    have hh : (lifeAt s.ph).holds = false := by rw [hl]; rfl
    exact ⟨eq_none_of_isSome h.keyblk hk, eq_none_of_isSome h.ipad hi, eq_none_of_isSome h.opad ho,
      eq_none_of_isSome h.idig hd, eq_none_of_isSome h.hash hh, h.life.trans hl,
      eq_none_of_isSome h.ctr (hc _), eq_none_of_isSome h.off (hc _)⟩
  · rintro ⟨h1, h2, h3, h4, h5, h6, h7, h8⟩
    constructor <;> simp [*, HashLife.holds]

/-- Outside the phases from KB_CLEAR to RETIRE the invariant asks that STATUS agrees with PH, that no register holds a
value, and that the spaces and the schedule are in order. -/
theorem inv_iff_of_not_pastCheck {s : State.Of σ} (hp : pastCheck s.ph = false) :
    Inv s ↔ StatusInv s ∧ HoldsNothing s ∧ MemoryInv s ∧ noBench s.inputs = true := by
  have hprog : ProgressInv s := by
    unfold ProgressInv; revert hp; cases s.ph <;> simp [pastCheck, progressAt]
  rw [← heldInv_iff_holdsNothing hp]
  exact ⟨fun h => ⟨h.status, h.held, h.memory, h.schedule⟩,
    fun ⟨h1, h2, h3, h4⟩ => ⟨h1, h2, hprog, fun e => absurd (hp.symm.trans e) nofun, h3, h4⟩⟩

/-- The invariant does not look at what a read returned, and of the schedule at benches only (log 1, 2, 3). -/
theorem Inv.setSchedule {s : State.Of σ} (h : Inv s) {l : List Input} (hl : noBench l = true) (v : Option Word32) :
    Inv ((s.setInputs l).setRdData v) where
  status := h.status.congr ⟨rfl, rfl, rfl, rfl, rfl⟩
  held := ⟨h.held.keyblk, h.held.ipad, h.held.opad, h.held.idig, h.held.life, h.held.hash, h.held.ctr, h.held.off⟩
  progress := h.progress
  checked := h.checked
  memory := h.memory.congr (by simp) (by simp)
  schedule := hl

theorem Inv.setInputs {s : State.Of σ} (h : Inv s) {l : List Input} (hl : noBench l = true) : Inv (s.setInputs l) :=
  h.setSchedule hl s.rdData

theorem Inv.setRdData {s : State.Of σ} (h : Inv s) (v : Option Word32) : Inv (s.setRdData v) :=
  h.setSchedule h.schedule v

theorem inv_takeReset {s : State.Of σ} (hm : MemoryInv s) (hs : noBench s.inputs = true) : Inv (takeReset s) :=
  (inv_iff_of_not_pastCheck rfl).mpr ⟨(statusInv_idle rfl).mpr ⟨rfl, rfl, rfl⟩,
    ⟨rfl, rfl, rfl, rfl, rfl, rfl, rfl, rfl⟩, hm.congr ⟨rfl, rfl, rfl⟩ ⟨rfl, rfl, rfl⟩, hs⟩

/-- The reset state is the reset of itself, and its spaces are empty. -/
theorem inv_reset : Inv State.reset := by
  have hm : MemoryInv State.reset := memoryInv_iff.mpr fun sp => by
    cases sp <;> exact ⟨Memory.nil_wf, Memory.nil_below 0⟩
  exact inv_takeReset hm rfl

/-- Settles O52: the reset state is what a reset leaves. -/
theorem invariantHoldsAtReset : Obligations.InvariantHoldsAtReset := inv_reset

/-- While BUSY = 0 a change that leaves STATUS, PH, the data registers and the schedule alone, and the spaces in order,
keeps the invariant. -/
theorem Inv.change_at_rest {s t : State.Of σ} (h : Inv s) (hb : s.busy = false)
    (hst : t.ph = s.ph ∧ t.busy = s.busy ∧ t.done = s.done ∧ t.fault = s.fault ∧ t.faultCode = s.faultCode)
    (hn : HoldsNothing s → HoldsNothing t) (hm : MemoryInv t) (hl : t.inputs = s.inputs) : Inv t := by
  have hp := h.status.not_pastCheck hb
  obtain ⟨hs, hns, _, hls⟩ := (inv_iff_of_not_pastCheck hp).mp h
  exact (inv_iff_of_not_pastCheck (by rw [hst.1, hp])).mpr ⟨hs.congr hst, hn hns, hm, by rw [hl, hls]⟩

theorem platformAct_inv {a : PlatformAction} {s t : State.Of σ} (h : platformAct a s = .next t) (hi : Inv s) :
    Inv t := by
  have hm := hi.memory.platformAct h
  obtain rfl | ⟨hb, sp, cap, m, rfl, -⟩ := platformAct_effect h
  · exact inv_takeReset hi.memory hi.schedule
  · exact hi.change_at_rest hb (by simp) (by simp [HoldsNothing]) hm (by simp)

theorem HostEffect.inv {s t : State.Of σ} (h : HostEffect s t) (hi : Inv s) : Inv t := by
  cases h with
  | nothing => exact hi
  | read v => exact hi.setRdData v
  | start hb hf =>
    have hidle : s.ph = .idle := (hi.status.rests hb).resolve_right fun hp => by
      rw [hi.status.fault_iff.mpr hp] at hf; cases hf
    obtain ⟨hs, hn, hm, hl⟩ := (inv_iff_of_not_pastCheck (hi.status.not_pastCheck hb)).mp hi
    have hc : s.faultCode = 0 := hi.status.code_zero (by simp [hidle])
    exact (inv_iff_of_not_pastCheck rfl).mpr
      ⟨(statusInv_enabled rfl).mpr ⟨rfl, rfl, hf, hc⟩, hn, hm.congr (by simp) (by simp), hl⟩
  | keyLen v hb => exact hi.change_at_rest hb (by simp) id (hi.memory.congr (by simp) (by simp)) rfl
  | dataLen v hb => exact hi.change_at_rest hb (by simp) id (hi.memory.congr (by simp) (by simp)) rfl

end Sys2Proof.Machine

/-! SUPPORT. A micro-operation of a run completes, and every effect of a run keeps the invariant. -/

namespace Sys2Proof.Machine

variable {σ : Type}

/-! ### What the invariant says at a phase -/

theorem Inv.contract {s : State.Of σ} (h : Inv s) {p : Phase} (hp : s.ph = p) (hc : pastCheck p = true) :
    64 ≤ s.dstCap.toNat ∧ s.keyLen.toNat ≤ s.keyCap.toNat ∧ s.dataLen.toNat ≤ s.dataCap.toNat := by
  have := h.checked (by rw [hp, hc])
  simpa [contractHolds, and_assoc] using this

theorem Inv.progress_at {s : State.Of σ} (h : Inv s) {p : Phase} (hp : s.ph = p) :
    progressAt p s.keyLen.toNat s.dataLen.toNat ((s.off.map (·.toNat)).getD 0) ((s.ctr.map (·.toNat)).getD 0) :=
  hp ▸ h.progress

/-- Where the counters hold values, these are the ones of 43_orchestrator R161. -/
theorem Inv.counters {s : State.Of σ} (h : Inv s) {p : Phase} (hp : s.ph = p)
    (hc : countersHeld p (!keyIsShort s.keyLen) = true) : ∃ off ctr, s.off = some off ∧ s.ctr = some ctr ∧
      progressAt p s.keyLen.toNat s.dataLen.toNat off.toNat ctr.toNat := by
  obtain ⟨off, ho⟩ := Option.isSome_iff_exists.mp (h.held.off.trans (hp ▸ hc))
  obtain ⟨ctr, hctr⟩ := Option.isSome_iff_exists.mp (h.held.ctr.trans (hp ▸ hc))
  have hprog := h.progress_at hp
  rw [ho, hctr] at hprog
  exact ⟨off, ctr, ho, hctr, hprog⟩

theorem keyIsShort_iff {len : Word32} : keyIsShort len = true ↔ len.toNat ≤ 128 := by simp [keyIsShort]

theorem toNat_ctr_lt {s : State.Of σ} (h : Inv s) {c : U128} (hc : s.ctr = some c) : c.toNat < 2 ^ 33 := by
  have hheld : countersHeld s.ph (!keyIsShort s.keyLen) = true := by rw [← h.held.ctr, hc]; rfl
  obtain ⟨off, c', -, hc', hprog⟩ := h.counters rfl hheld
  cases hc.symm.trans hc'
  have hk := s.keyLen.isLt
  have hd := s.dataLen.isLt
  cases hp : s.ph with rw [hp] at hheld hprog
  | idle | check | kbClear | knCopy | khInit | faulted => exact absurd hheld nofun
  | pdIpad | pdOpad | inInit =>
    have hlong : ¬ s.keyLen.toNat ≤ 128 := by rw [← keyIsShort_iff]; simpa [countersHeld] using hheld
    have := hprog (Nat.lt_of_not_le hlong)
    omega
  | _ =>
    simp only [progressAt] at hprog
    omega

theorem ctrHi_eq_zero {c : U128} (h : c.toNat < 2 ^ 33) : ctrHi c = 0 := by
  refine BitVec.eq_of_toNat_eq ?_
  rw [ctrHi, BitVec.extractLsb'_toNat, Nat.shiftRight_eq_div_pow, Nat.div_eq_of_lt (by omega)]
  rfl

/-- Settles O55: R161 bounds a counter by the length of a key or of a message and a block. -/
theorem counterHighHalfStaysZero : Obligations.CounterHighHalfStaysZero := by
  intro s c h hc
  exact ⟨toNat_ctr_lt h hc, ctrHi_eq_zero (toNat_ctr_lt h hc)⟩

/-! ### Readiness -/

theorem portReady_iff {life : HashLife} {s : State.Of σ} :
    portReady life s = true ↔ s.hs = life ∧ ∃ h c, s.h = some h ∧ s.ctr = some c := by
  simp [portReady, Option.isSome_iff_exists, and_assoc]

/-- A micro-operation at which no assertion fails completes (60_exceptions R204). -/
theorem MicroOpEffect.of_ready {E : Engine σ} {p : Phase} {s : State.Of σ} (hp : p ≠ .check)
    (h : microOpReady p s = true) : ∃ t, MicroOpEffect E s p t := by
  cases p with
  | check => exact absurd rfl hp
  | idle => exact ⟨_, .idle⟩
  | kbClear => exact ⟨_, .kbClear⟩
  | khInit => exact ⟨_, .khInit⟩
  | inInit => exact ⟨_, .inInit⟩
  | outInit => exact ⟨_, .outInit⟩
  | retire => exact ⟨_, .retire⟩
  | faulted => exact ⟨_, .faulted⟩
  | knCopy =>
    simp only [microOpReady, Bool.and_eq_true, decide_eq_true_eq, Option.isSome_iff_exists] at h
    obtain ⟨⟨⟨kb, hk⟩, h1⟩, h2⟩ := h
    exact ⟨_, .knCopy kb hk h1 h2⟩
  | khMulti =>
    simp only [microOpReady, Bool.and_eq_true, portReady_iff, Option.any_eq_true, decide_eq_true_eq] at h
    obtain ⟨⟨hs, v, c, hh, hc⟩, off, ho, hb⟩ := h
    exact ⟨_, .khMulti off v c ⟨_, Memory.length_readBytes ..⟩ ho hh hc hs hb rfl⟩
  | inMsgMulti =>
    simp only [microOpReady, Bool.and_eq_true, portReady_iff, Option.any_eq_true, decide_eq_true_eq] at h
    obtain ⟨⟨hs, v, c, hh, hc⟩, off, ho, hb⟩ := h
    exact ⟨_, .inMsgMulti off v c ⟨_, Memory.length_readBytes ..⟩ ho hh hc hs hb rfl⟩
  | khLast =>
    simp only [microOpReady, Bool.and_eq_true, portReady_iff, Option.any_eq_true, chunkReady, decide_eq_true_eq] at h
    obtain ⟨⟨hs, v, c, hh, hc⟩, off, ho, hr, hb⟩ := h
    exact ⟨_, .khLast off v c ho hh hc hs hr hb⟩
  | inMsgLast =>
    simp only [microOpReady, Bool.and_eq_true, portReady_iff, Option.any_eq_true, chunkReady, decide_eq_true_eq] at h
    obtain ⟨⟨hs, v, c, hh, hc⟩, off, ho, hr, hb⟩ := h
    exact ⟨_, .inMsgLast off v c ho hh hc hs hr hb⟩
  | khFinish =>
    simp only [microOpReady, Bool.and_eq_true, portReady_iff, Option.isSome_iff_exists] at h
    obtain ⟨⟨hs, v, c, hh, hc⟩, kb, hk⟩ := h
    exact ⟨_, .khFinish kb v c hk hh hc hs⟩
  | pdIpad =>
    obtain ⟨kb, hk⟩ := Option.isSome_iff_exists.mp h
    exact ⟨_, .pdIpad kb hk⟩
  | pdOpad =>
    obtain ⟨kb, hk⟩ := Option.isSome_iff_exists.mp h
    exact ⟨_, .pdOpad kb hk⟩
  | inPadLast =>
    simp only [microOpReady, Bool.and_eq_true, portReady_iff, Option.isSome_iff_exists] at h
    obtain ⟨⟨hs, v, c, hh, hc⟩, pad, hpad⟩ := h
    exact ⟨_, .inPadLast pad v c hpad hh hc hs⟩
  | inPadMulti =>
    simp only [microOpReady, Bool.and_eq_true, portReady_iff, Option.isSome_iff_exists] at h
    obtain ⟨⟨⟨hs, v, c, hh, hc⟩, pad, hpad⟩, off, ho⟩ := h
    exact ⟨_, .inPadMulti pad off v c hpad ho hh hc hs⟩
  | inFinish =>
    obtain ⟨hs, v, c, hh, hc⟩ := portReady_iff.mp h
    exact ⟨_, .inFinish v c hh hc hs⟩
  | outPadMulti =>
    simp only [microOpReady, Bool.and_eq_true, portReady_iff, Option.isSome_iff_exists] at h
    obtain ⟨⟨hs, v, c, hh, hc⟩, pad, hpad⟩ := h
    exact ⟨_, .outPadMulti pad v c hpad hh hc hs⟩
  | outDigLast =>
    simp only [microOpReady, Bool.and_eq_true, portReady_iff, Option.isSome_iff_exists] at h
    obtain ⟨⟨hs, v, c, hh, hc⟩, d, hd⟩ := h
    exact ⟨_, .outDigLast d v c hd hh hc hs⟩
  | outFinish =>
    simp only [microOpReady, Bool.and_eq_true, portReady_iff, decide_eq_true_eq] at h
    obtain ⟨⟨hs, v, c, hh, hc⟩, hd⟩ := h
    exact ⟨_, .outFinish v c hh hc hs hd⟩

/-- In a run the port is ready for the command of a phase that reads `H` (42_hash_engine_port R116). -/
theorem Inv.port_is_ready {s : State.Of σ} (h : Inv s) {p : Phase} (hp : s.ph = p) (hh : (lifeAt p).holds = true)
    (hc : countersHeld p (!keyIsShort s.keyLen) = true) : portReady (lifeAt p) s = true := by
  subst hp
  simp [portReady, h.held.life, h.held.hash, h.held.ctr, hh, hc]

/-- The chunk left of an operand that fits its space is in bounds where at most a block is left (20_memory R43). -/
theorem chunkReady_of_last {len cap off : Word32} (h1 : off.toNat < len.toNat) (h2 : len.toNat ≤ off.toNat + 128)
    (h3 : len.toNat ≤ cap.toNat) : chunkReady len cap off = true := by
  have hsub : (len - off).toNat = len.toNat - off.toNat :=
    BitVec.toNat_sub_of_le (BitVec.le_def.mpr (by omega))
  simp only [chunkReady, hsub, Bool.and_eq_true, decide_eq_true_eq]
  omega

/-- In a run no assertion fails (60_exceptions R204, 70_reset R238). -/
theorem Inv.microOp_is_ready {s : State.Of σ} (h : Inv s) : microOpReady s.ph s = true := by
  cases hp : s.ph with
  | idle | check | kbClear | khInit | inInit | outInit | retire | faulted => rfl
  | knCopy =>
    obtain ⟨-, hcap, -⟩ := h.contract hp rfl
    have hkl : s.keyLen.toNat ≤ 128 := h.progress_at hp
    have hk : s.keyblk.isSome = true := h.held.keyblk.trans (congrArg keyblkHeld hp)
    simp [microOpReady, hk, hkl, hcap]
  | khMulti =>
    obtain ⟨-, hcap, -⟩ := h.contract hp rfl
    obtain ⟨off, c, ho, -, -, -, hlt⟩ := h.counters hp rfl
    have hport : portReady .absorbing s = true := h.port_is_ready hp rfl rfl
    have hb : off.toNat + 128 ≤ s.keyCap.toNat := by omega
    simp [microOpReady, hport, ho, hb]
  | khLast =>
    obtain ⟨-, hcap, -⟩ := h.contract hp rfl
    obtain ⟨off, c, ho, -, -, -, hlt, hle, -⟩ := h.counters hp rfl
    have hport : portReady .absorbing s = true := h.port_is_ready hp rfl rfl
    simp [microOpReady, hport, ho, chunkReady_of_last hlt hle hcap]
  | khFinish =>
    have hport : portReady .final s = true := h.port_is_ready hp rfl rfl
    have hk : s.keyblk.isSome = true := h.held.keyblk.trans (congrArg keyblkHeld hp)
    simp [microOpReady, hport, hk]
  | pdIpad | pdOpad =>
    exact h.held.keyblk.trans (congrArg keyblkHeld hp)
  | inPadLast =>
    have hport : portReady .absorbing s = true := h.port_is_ready hp rfl rfl
    have hi : s.ipad.isSome = true := h.held.ipad.trans (congrArg ipadHeld hp)
    simp [microOpReady, hport, hi]
  | inPadMulti =>
    obtain ⟨off, c, ho, -⟩ := h.counters hp rfl
    have hport : portReady .absorbing s = true := h.port_is_ready hp rfl rfl
    have hi : s.ipad.isSome = true := h.held.ipad.trans (congrArg ipadHeld hp)
    simp [microOpReady, hport, hi, ho]
  | inMsgMulti =>
    obtain ⟨-, -, hcap⟩ := h.contract hp rfl
    obtain ⟨off, c, ho, -, -, -, hlt⟩ := h.counters hp rfl
    have hport : portReady .absorbing s = true := h.port_is_ready hp rfl rfl
    have hb : off.toNat + 128 ≤ s.dataCap.toNat := by omega
    simp [microOpReady, hport, ho, hb]
  | inMsgLast =>
    obtain ⟨-, -, hcap⟩ := h.contract hp rfl
    obtain ⟨off, c, ho, -, -, -, hlt, hle⟩ := h.counters hp rfl
    have hport : portReady .absorbing s = true := h.port_is_ready hp rfl rfl
    simp [microOpReady, hport, ho, chunkReady_of_last hlt hle hcap]
  | inFinish => exact h.port_is_ready hp rfl rfl
  | outPadMulti =>
    have hport : portReady .absorbing s = true := h.port_is_ready hp rfl rfl
    have hop : s.opad.isSome = true := h.held.opad.trans (congrArg opadHeld hp)
    simp [microOpReady, hport, hop]
  | outDigLast =>
    have hport : portReady .absorbing s = true := h.port_is_ready hp rfl rfl
    have hd : s.idig.isSome = true := h.held.idig.trans (congrArg idigHeld hp)
    simp [microOpReady, hport, hd]
  | outFinish =>
    have hport : portReady .final s = true := h.port_is_ready hp rfl rfl
    simp [microOpReady, hport, (h.contract hp rfl).1]

/-! ### The status and the registers after a micro-operation -/

/-- From CHECK to OUT_FINISH a micro-operation that completes names a next one and leaves STATUS alone. -/
theorem MicroOpEffect.keeps_status {E : Engine σ} {p : Phase} {s t : State.Of σ} (e : MicroOpEffect E s p t)
    (hp : p.enabled = true) (hr : p ≠ .retire) : t.ph.enabled = true ∧
      t.busy = s.busy ∧ t.done = s.done ∧ t.fault = s.fault ∧ t.faultCode = s.faultCode := by
  cases e with
  | idle | faulted => exact absurd hp (by decide)
  | retire => exact absurd rfl hr
  | kbClear | khMulti | inInit | inPadMulti | inMsgMulti =>
    simp only [setPh_ph, setPh_busy, setPh_done, setPh_fault, setPh_faultCode]
    split <;> simp [Phase.enabled, Phase.code]
  | _ => simp [Phase.enabled, Phase.code]

theorem MicroOpEffect.operands {E : Engine σ} {p : Phase} {s t : State.Of σ} (e : MicroOpEffect E s p t) :
    t.keyLen = s.keyLen ∧ t.dataLen = s.dataLen ∧ t.keyCap = s.keyCap ∧ t.dataCap = s.dataCap ∧
      t.dstCap = s.dstCap ∧ t.inputs = s.inputs := by
  cases e <;> simp

/-- A micro-operation writes and discards the registers that the table of 70_reset R238 gains and loses at its end. -/
theorem MicroOpEffect.held {E : Engine σ} {p : Phase} {s t : State.Of σ} (e : MicroOpEffect E s p t)
    (hp : s.ph = p) (hr : p ≠ .retire) (hi : Inv s) : HeldInv t := by
  obtain ⟨hk, hip, hop, hid, hl, hh, hc, ho⟩ := hi.held
  have hprog := hi.progress_at hp
  rw [hp] at hk hip hop hid hl hh hc ho
  cases e with
  | idle | faulted => exact hi.held
  | retire => exact absurd rfl hr
  | kbClear | khMulti | inInit | inPadMulti | inMsgMulti =>
    -- two successors, at both of which the same registers hold a value
    constructor <;> simp only [setPh_ph] <;> split <;>
      simp [keyblkHeld, ipadHeld, opadHeld, idigHeld, lifeAt, HashLife.holds, countersHeld, *]
  | knCopy _ _ h1 =>
    have hshort : keyIsShort s.keyLen = true := keyIsShort_iff.mpr h1
    constructor <;> simp [keyblkHeld, ipadHeld, opadHeld, idigHeld, lifeAt, HashLife.holds, countersHeld, *]
  | khFinish =>
    have hlong : keyIsShort s.keyLen = false := by
      obtain ⟨-, -, h⟩ := hprog
      rw [← Bool.not_eq_true, keyIsShort_iff]; omega
    constructor <;> simp [keyblkHeld, ipadHeld, opadHeld, idigHeld, lifeAt, HashLife.holds, countersHeld, *]
  | _ =>
    constructor <;> simp [keyblkHeld, ipadHeld, opadHeld, idigHeld, lifeAt, HashLife.holds, countersHeld, *]

/-! ### The counters after a micro-operation -/

theorem toNat_updateMulti {E : Engine σ} (hE : E.CounterContract) {c : U128}
    (hc : c.toNat < 2 ^ 33) (h : σ) (b : Block) : (E.updateMulti h c b).2.toNat = c.toNat + 128 := by
  rw [hE.1]
  exact BitVec.toNat_add_of_lt (y := 128#128) (show c.toNat + 128 < 2 ^ 128 by omega)

theorem toNat_updateLast {E : Engine σ} (hE : E.CounterContract) {c : U128}
    (hc : c.toNat < 2 ^ 33) (h : σ) {x : List Byte} (hx : x.length ≤ 128) :
    (E.updateLast h c x).2.toNat = c.toNat + x.length := by
  rw [hE.2 h c x hx, BitVec.toNat_add, BitVec.toNat_ofNat]
  omega

theorem messageIsEmpty_iff {len : Word32} : messageIsEmpty len = true ↔ len.toNat = 0 := by
  simp [messageIsEmpty, BitVec.toNat_eq]

theorem moreThanBlock_iff {len off : Word32} (h : off.toNat ≤ len.toNat) :
    moreThanBlock len off = true ↔ off.toNat + 128 < len.toNat := by
  rw [moreThanBlock, decide_eq_true_iff, BitVec.toNat_sub_of_le (BitVec.le_def.mpr h)]
  omega

theorem toNat_advance {len off : Word32} (h : off.toNat + 128 < len.toNat) :
    (off + 128).toNat = off.toNat + 128 := by
  have hlen := len.isLt
  exact BitVec.toNat_add_of_lt (y := 128#32) (show off.toNat + 128 < 2 ^ 32 by omega)

/-- The next phase while the key is hashed, on the advanced offset (43_orchestrator R141). -/
theorem progressAt_khMulti_or_khLast {len off : Word32} {dl c : Nat} (hc : c = off.toNat)
    (hmod : off.toNat % 128 = 0) (hlt : off.toNat < len.toNat) (hlong : 128 < len.toNat) :
    progressAt (if moreThanBlock len off then .khMulti else .khLast) len.toNat dl off.toNat c := by
  have hmore := moreThanBlock_iff (Nat.le_of_lt hlt)
  split
  · rename_i hb
    exact ⟨hc, hmod, hmore.mp hb⟩
  · rename_i hb
    exact ⟨hc, hmod, hlt, Nat.le_of_not_lt (mt hmore.mpr hb), hlong⟩

/-- The next phase while the message is hashed, on the advanced offset (43_orchestrator R141). -/
theorem progressAt_inMsgMulti_or_inMsgLast {len off : Word32} {kl c : Nat} (hc : c = 128 + off.toNat)
    (hmod : off.toNat % 128 = 0) (hlt : off.toNat < len.toNat) :
    progressAt (if moreThanBlock len off then .inMsgMulti else .inMsgLast) kl len.toNat off.toNat c := by
  have hmore := moreThanBlock_iff (Nat.le_of_lt hlt)
  split
  · rename_i hb
    exact ⟨hc, hmod, hmore.mp hb⟩
  · rename_i hb
    exact ⟨hc, hmod, hlt, Nat.le_of_not_lt (mt hmore.mpr hb)⟩

/-- The last chunk, read from a space, takes the offset to the end and the counter as far. -/
theorem last_chunk_advances {E : Engine σ} (hE : E.CounterContract) {c : U128} (hc : c.toNat < 2 ^ 33) (h : σ)
    {len off : Word32} (hlt : off.toNat < len.toNat) (hr : (len - off).toNat ≤ 128) (m : Memory) :
    off + (len - off) = len ∧
      (E.updateLast h c (Memory.readBytes m off.toNat (len - off).toNat)).2.toNat =
        c.toNat + (len.toNat - off.toNat) := by
  have hsub := BitVec.toNat_sub_of_le (BitVec.le_def.mpr (Nat.le_of_lt hlt))
  refine ⟨by bv_omega, ?_⟩
  rw [toNat_updateLast hE hc h (by rw [Memory.length_readBytes]; exact hr), Memory.length_readBytes, hsub]

/-- The engine's counter and the offset advance together. -/
theorem MicroOpEffect.progress {E : Engine σ} (hE : E.CounterContract) {p : Phase} {s t : State.Of σ}
    (e : MicroOpEffect E s p t) (hp : s.ph = p) (hi : Inv s) : ProgressInv t := by
  have hprog := hi.progress_at hp
  cases e with
  | idle | faulted => exact hi.progress
  | check | retire => trivial
  | kbClear =>
    cases hs : keyIsShort s.keyLen with
    | true => exact keyIsShort_iff.mp hs
    | false =>
      have hlong : ¬ s.keyLen.toNat ≤ 128 := by rw [← keyIsShort_iff, hs]; exact nofun
      exact Nat.lt_of_not_le hlong
  | knCopy _ _ h1 => exact fun h => absurd h1 (Nat.not_le.mpr h)
  | khInit => exact ⟨rfl, rfl, hprog⟩
  | khMulti off h c blk ho _ hc =>
    rw [ho, hc] at hprog
    obtain ⟨hco, hmod, hleft⟩ :
      c.toNat = off.toNat ∧ off.toNat % 128 = 0 ∧ off.toNat + 128 < s.keyLen.toNat := hprog
    have hctr := toNat_updateMulti hE (toNat_ctr_lt hi hc) h blk
    have hoff := toNat_advance hleft
    exact progressAt_khMulti_or_khLast (hctr.trans (show c.toNat + 128 = (off + 128).toNat by omega))
      (by omega) (by omega) (by omega)
  | inMsgMulti off h c blk ho _ hc =>
    rw [ho, hc] at hprog
    obtain ⟨hco, hmod, hleft⟩ :
      c.toNat = 128 + off.toNat ∧ off.toNat % 128 = 0 ∧ off.toNat + 128 < s.dataLen.toNat := hprog
    have hctr := toNat_updateMulti hE (toNat_ctr_lt hi hc) h blk
    have hoff := toNat_advance hleft
    exact progressAt_inMsgMulti_or_inMsgLast (hctr.trans (show c.toNat + 128 = 128 + (off + 128).toNat by omega))
      (by omega) (by omega)
  | inPadMulti pad off h c _ ho _ hc =>
    rw [ho, hc] at hprog
    obtain ⟨hco, hof, hne⟩ : c.toNat = 0 ∧ off.toNat = 0 ∧ 0 < s.dataLen.toNat := hprog
    have hctr := toNat_updateMulti hE (toNat_ctr_lt hi hc) h pad
    have := progressAt_inMsgMulti_or_inMsgLast (len := s.dataLen) (off := off) (kl := s.keyLen.toNat)
      (c := (E.updateMulti h c pad).2.toNat) (by omega) (by omega) (by omega)
    simpa [ProgressInv, ho] using this
  | khLast off h c ho _ hc hs hr =>
    rw [ho, hc] at hprog
    obtain ⟨hco, -, hlt, -, hlong⟩ : c.toNat = off.toNat ∧ off.toNat % 128 = 0 ∧ off.toNat < s.keyLen.toNat ∧
      s.keyLen.toNat ≤ off.toNat + 128 ∧ 128 < s.keyLen.toNat := hprog
    obtain ⟨hoff, hctr⟩ := last_chunk_advances hE (toNat_ctr_lt hi hc) h hlt hr s.keyMem
    exact ⟨hctr.trans (show c.toNat + (s.keyLen.toNat - off.toNat) = s.keyLen.toNat by omega),
      congrArg BitVec.toNat hoff, hlong⟩
  | inMsgLast off h c ho _ hc hs hr =>
    rw [ho, hc] at hprog
    obtain ⟨hco, -, hlt, -⟩ : c.toNat = 128 + off.toNat ∧ off.toNat % 128 = 0 ∧ off.toNat < s.dataLen.toNat ∧
      s.dataLen.toNat ≤ off.toNat + 128 := hprog
    obtain ⟨hoff, hctr⟩ := last_chunk_advances hE (toNat_ctr_lt hi hc) h hlt hr s.dataMem
    exact ⟨hctr.trans (show c.toNat + (s.dataLen.toNat - off.toNat) = 128 + s.dataLen.toNat by omega),
      congrArg BitVec.toNat hoff⟩
  | khFinish => exact fun _ => ⟨hprog.1, hprog.2.1⟩
  | pdIpad | pdOpad | inFinish | outFinish => exact hprog
  | inInit =>
    cases he : messageIsEmpty s.dataLen with
    | true => exact ⟨rfl, rfl, messageIsEmpty_iff.mp he⟩
    | false =>
      have hne : s.dataLen.toNat ≠ 0 := by rw [Ne, ← messageIsEmpty_iff, he]; exact nofun
      exact ⟨rfl, rfl, Nat.pos_of_ne_zero hne⟩
  | inPadLast pad h c _ _ hc =>
    rw [hc] at hprog
    obtain ⟨hco, hof, hempty⟩ : c.toNat = 0 ∧ _ = 0 ∧ s.dataLen.toNat = 0 := hprog
    have hlen := pad.toList_length
    have hctr := toNat_updateLast hE (toNat_ctr_lt hi hc) h (Nat.le_of_eq hlen)
    exact ⟨hctr.trans (show c.toNat + pad.toList.length = 128 + s.dataLen.toNat by omega), hof.trans hempty.symm⟩
  | outInit => exact ⟨rfl, rfl⟩
  | outPadMulti pad h c _ _ hc =>
    rw [hc] at hprog
    obtain ⟨hco, hof⟩ : c.toNat = 0 ∧ _ = 0 := hprog
    have hctr := toNat_updateMulti hE (toNat_ctr_lt hi hc) h pad
    exact ⟨hctr.trans (show c.toNat + 128 = 128 by omega), hof⟩
  | outDigLast d h c _ _ hc =>
    rw [hc] at hprog
    obtain ⟨hco, hof⟩ : c.toNat = 128 ∧ _ = 0 := hprog
    have hlen := d.toList_length
    have hctr := toNat_updateLast hE (toNat_ctr_lt hi hc) h (x := d.toList) (by omega)
    exact ⟨hctr.trans (show c.toNat + d.toList.length = 192 by omega), hof⟩

/-! ### Every step of a run -/

/-- RETIRE discards what is left of a COMPUTE and rests with DONE = 1 (44_host_interface R195). -/
theorem MicroOpEffect.inv_of_retire {E : Engine σ} {s t : State.Of σ} (e : MicroOpEffect E s .retire t)
    (hp : s.ph = .retire) (hi : Inv s) : Inv t := by
  have hm := e.memoryInv hi.memory
  obtain ⟨-, -, hf, hc⟩ := (statusInv_enabled (by rw [hp]; rfl)).mp hi.status
  have hk : s.keyblk = none := eq_none_of_isSome hi.held.keyblk (by rw [hp]; rfl)
  have hh : s.h = none := eq_none_of_isSome hi.held.hash (by rw [hp]; rfl)
  have hs : s.hs = .empty := by rw [hi.held.life, hp]; rfl
  obtain ⟨tp, tb, tf, tc, tin⟩ : t.ph = .idle ∧ t.busy = false ∧ t.fault = s.fault ∧
      t.faultCode = s.faultCode ∧ t.inputs = s.inputs := by cases e; simp
  have hn : HoldsNothing t := by cases e; simp [HoldsNothing, hk, hh, hs]
  exact (inv_iff_of_not_pastCheck (by rw [tp]; rfl)).mpr
    ⟨(statusInv_idle tp).mpr ⟨tb, tf.trans hf, tc.trans hc⟩, hn, hm, by rw [tin, hi.schedule]⟩

/-- CHECK lets a launch pass only where the contract holds, and no later micro-operation touches what it is about
(44_host_interface R194). -/
theorem MicroOpEffect.contractHolds {E : Engine σ} {p : Phase} {s t : State.Of σ} (e : MicroOpEffect E s p t)
    (hp : s.ph = p) (hen : p.enabled = true) (hi : Inv s) : contractHolds t = true := by
  obtain ⟨hkl, hdl, hkc, hdc, hds, -⟩ := e.operands
  have hs : Machine.contractHolds s = true := by
    cases e with
    | check h1 h2 h3 => simp [Machine.contractHolds, h1, h2, h3]
    | idle | faulted => exact absurd hen (by decide)
    | _ => exact hi.checked (by rw [hp]; rfl)
  simpa [Machine.contractHolds, hkl, hdl, hkc, hdc, hds] using hs

theorem MicroOpEffect.inv {E : Engine σ} (hE : E.CounterContract) {p : Phase} {s t : State.Of σ}
    (e : MicroOpEffect E s p t) (hp : s.ph = p) (hi : Inv s) : Inv t := by
  rcases p.idle_or_faulted_or_enabled with rfl | rfl | hen
  · cases e; exact hi
  · cases e; exact hi
  · by_cases hr : p = .retire
    · subst hr; exact e.inv_of_retire hp hi
    · obtain ⟨hen', hb, hd, hf, hc⟩ := e.keeps_status hen hr
      obtain ⟨sb, sd, sf, sc⟩ := (statusInv_enabled (by rw [hp, hen])).mp hi.status
      obtain ⟨-, -, -, -, -, hin⟩ := e.operands
      exact {
        status := (statusInv_enabled hen').mpr ⟨hb.trans sb, hd.trans sd, hf.trans sf, hc.trans sc⟩
        held := e.held hp hr hi
        progress := e.progress hE hp hi
        checked := fun _ => e.contractHolds hp hen hi
        memory := e.memoryInv hi.memory
        schedule := hin ▸ hi.schedule }

/-- CHECK faults by a contract cause only (60_exceptions R200). -/
theorem check_error_code {s : State.Of σ} {c : FaultCause} (h : check s = .error c) :
    c.code = 1 ∨ c.code = 2 ∨ c.code = 3 := by
  unfold check at h
  split at h
  · cases h; exact .inl rfl
  · split at h
    · cases h; exact .inr (.inl rfl)
    · split at h
      · cases h; exact .inr (.inr rfl)
      · cases h

/-- A fault of CHECK leaves a state of the invariant: nothing but STATUS and PH changes (60_exceptions R205). -/
theorem inv_raiseFault_of_check {s : State.Of σ} {c : FaultCause} (hp : s.ph = .check) (h : check s = .error c)
    (hi : Inv s) : Inv (raiseFault c s) := by
  obtain ⟨hs, hn, hm, hl⟩ := (inv_iff_of_not_pastCheck (by rw [hp]; rfl)).mp hi
  obtain ⟨-, hd, -, -⟩ := (statusInv_enabled (by rw [hp]; rfl)).mp hs
  exact (inv_iff_of_not_pastCheck rfl).mpr ⟨(statusInv_faulted rfl).mpr ⟨rfl, hd, rfl, check_error_code h⟩, hn,
    hm.congr (by simp [raiseFault]) (by simp [raiseFault]), hl⟩

/-- In a run only CHECK faults (60_exceptions R204). -/
theorem Inv.microOp_error {E : Engine σ} {s : State.Of σ} (hi : Inv s) {c : FaultCause}
    (h : microOp E s.ph s = .error c) : s.ph = .check := by
  by_contra hp
  obtain ⟨t, ht⟩ := MicroOpEffect.of_ready (E := E) hp hi.microOp_is_ready
  rw [microOp_eq_ok.mpr ht] at h
  cases h

theorem PhaseEffect.inv {E : Engine σ} (hE : E.CounterContract) {s t : State.Of σ}
    (e : PhaseEffect E s s.ph t) (hi : Inv s) : Inv t := by
  cases e with
  | done _ e => exact e.inv hE rfl hi
  | fault c he =>
    have hp := hi.microOp_error he
    rw [hp] at he
    exact inv_raiseFault_of_check hp he hi

theorem StepEffect.inv {E : Engine σ} (hE : E.CounterContract) {s t : State.Of σ} (e : StepEffect E s t)
    (hi : Inv s) : Inv t := by
  cases e with
  | sequencer l hl e => exact e.inv hE (hi.setInputs (hl hi.schedule))
  | host l hl e => exact e.inv (hi.setInputs (hl hi.schedule))
  | bench l hl => rw [hi.schedule] at hl; cases hl
  | platform a l hl e => exact platformAct_inv e (hi.setInputs (hl hi.schedule))

/-- The reference engine advances its counter as 42_hash_engine_port R117 asks. -/
theorem engine_counterContract : engine.CounterContract := ⟨fun _ _ _ => rfl, fun _ _ _ _ => rfl⟩

/-- Settles O53: by the kind of turn. The sequencer's completes with the effect of its phase, which the parts of the
invariant follow one by one, or is a CHECK that faults. The engine enters through its counter contract only. -/
theorem everyStepKeepsTheInvariant : Obligations.EveryStepKeepsTheInvariant := by
  intro s t hi h
  rw [step_eq_stepFor] at h
  exact (StepEffect.of_step h).inv engine_counterContract hi

end Sys2Proof.Machine

/-! SUPPORT. Memory under an instruction: the one digest OUT_FINISH stores, and the frame of every instruction. -/

namespace Sys2Proof.Machine

variable {σ : Type}

/-! ### What an instruction writes to memory (20_memory R44, R48, R49) -/

/-- From `s` to `t` KEY, DATA and the capacities are as they were, and so is DST unless `stores`, when the bytes of one
digest stand at offset 0. -/
structure StoresAtMostDigest (stores : Prop) (s t : State.Of σ) : Prop where
  keyMem : t.keyMem = s.keyMem
  dataMem : t.dataMem = s.dataMem
  caps : (t.keyCap, t.dataCap, t.dstCap) = (s.keyCap, s.dataCap, s.dstCap)
  dstMem : t.dstMem = s.dstMem ∨ stores ∧ ∃ d : Digest, t.dstMem = Memory.writeBytes s.dstMem 0 d.toList

theorem HostEffect.stores_nothing {s t : State.Of σ} (e : HostEffect s t) (stores : Prop) :
    StoresAtMostDigest stores s t := by
  cases e <;> exact ⟨rfl, rfl, rfl, .inl rfl⟩

theorem PortEffect.stores_nothing {s t : State.Of σ} (e : PortEffect s t) (stores : Prop) :
    StoresAtMostDigest stores s t := by
  cases e <;> exact ⟨rfl, rfl, rfl, .inl rfl⟩

/-- OUT_FINISH alone reaches a space (43_orchestrator R159). -/
theorem MicroOpEffect.stores_at_outFinish {E : Engine σ} {p : Phase} {s t : State.Of σ} (e : MicroOpEffect E s p t) :
    StoresAtMostDigest (p.instr = .outFinish) s t := by
  cases e with
  | outFinish h c => exact ⟨by simp, by simp, by simp, .inr ⟨rfl, E.finish h c, by simp⟩⟩
  | _ => exact ⟨by simp, by simp, by simp, .inl (by simp)⟩

theorem PhaseEffect.stores_at_outFinish {E : Engine σ} {p : Phase} {s t : State.Of σ} (e : PhaseEffect E s p t) :
    StoresAtMostDigest (p.instr = .outFinish) s t := by
  cases e with
  | done _ e => exact e.stores_at_outFinish
  | fault => exact ⟨rfl, rfl, rfl, .inl rfl⟩

/-- The frame of memory, for every instruction and every engine. -/
theorem execFor_stores_at_outFinish {E : Engine σ} {i : Instr} {s t : State.Of σ} (h : execFor E i s = .next t) :
    StoresAtMostDigest (i = .outFinish) s t := by
  obtain e | e | ⟨p, rfl, e⟩ := execFor_effect h
  · exact e.stores_nothing _
  · exact e.stores_nothing _
  · exact e.stores_at_outFinish

/-- Settles O47: by what an instruction of each format can leave. -/
theorem onlyOutFinishWritesMemory : Obligations.OnlyOutFinishWritesMemory := by
  intro i s t h
  rw [exec_eq_execFor] at h
  obtain ⟨hkey, hdata, hcaps, hdst⟩ := execFor_stores_at_outFinish h
  exact ⟨fun a => by rw [hkey, hdata]; exact ⟨rfl, rfl⟩, hcaps, hdst⟩

/-! ### The bytes OUT_FINISH stores (20_memory R44) -/

/-- The meaning of a phase's row where its micro-operation completes. -/
theorem MicroOpEffect.exec_eq {p : Phase} {s t : State} (e : MicroOpEffect engine s p t) :
    exec p.instr s = .next t := by
  rw [exec_phase, microOp_eq_ok.mpr e, commit_ok]

/-- A byte array stored at offset 0 reads back byte by byte. -/
theorem Memory.read_writeBytes_get {m : Memory} (hm : Memory.wf m) {n a : Nat} (x : Bytes n) (ha : a < n) :
    Memory.read (Memory.writeBytes m 0 x.toList) a = x.get a := by
  have hlen : a < x.toList.length := by rw [x.toList_length]; exact ha
  have hread := Memory.read_writeBytes_inside hm (off := 0) hlen
  rwa [Nat.zero_add, ← List.getD_eq_getElem _ 0 hlen] at hread

/-- Settles O38: DST is left with the digest stored at offset 0, KEY and DATA as they were. -/
theorem outFinishWritesSixtyFourBytes : Obligations.OutFinishWritesSixtyFourBytes := by
  intro s h c hh hc hs hcap hwf
  refine ⟨_, (MicroOpEffect.outFinish h c hh hc hs hcap).exec_eq, fun a ha => ?_, fun a ha => ?_, fun a => by simp⟩
  · simp only [setPh_dstMem, setDst_dstMem]
    exact Memory.read_writeBytes_get hwf _ ha
  · simp only [setPh_dstMem, setDst_dstMem]
    exact Memory.read_writeBytes_outside (.inr (by rw [Bytes.toList_length]; omega))

/-! ### Assertions (60_exceptions R204) -/

/-- Settles O45: the registers, offsets and counters the invariant fixes at a phase are what its micro-operation
needs. -/
theorem runsNeverAssert : Obligations.RunsNeverAssert := fun _ h => h.microOp_is_ready

end Sys2Proof.Machine

/-! SUPPORT. The three encodings: the fields of a word, the decoder on the encoder's words and the encoder on the
decoder's, and the same through bytes (spec/30_encoding.md R61 to R65; log 13). -/

namespace Sys2Proof

/-! ### Format HT (R61, R62) -/

@[simp] theorem htW_htWord (w : BitVec 1) (reg : BitVec 3) (d : Word32) : htW (htWord w reg d) = w :=
  (BitVec.extractLsb'_append_eq_of_le (by decide)).trans BitVec.extractLsb'_append_eq_left

@[simp] theorem htReg_htWord (w : BitVec 1) (reg : BitVec 3) (d : Word32) : htReg (htWord w reg d) = reg :=
  (BitVec.extractLsb'_append_eq_of_le (by decide)).trans BitVec.extractLsb'_append_eq_right

@[simp] theorem htData_htWord (w : BitVec 1) (reg : BitVec 3) (d : Word32) : htData (htWord w reg d) = d :=
  BitVec.extractLsb'_append_eq_right

/-- A word is its three fields. -/
theorem htWord_fields (w : BitVec 36) : htWord (htW w) (htReg w) (htData w) = w := by
  rw [htWord, htW, htReg, htData,
    BitVec.extractLsb'_append_extractLsb'_eq_extractLsb' (start₂ := 35) (start₁ := 32) rfl,
    BitVec.extractLsb'_append_extractLsb'_eq_extractLsb' (start₂ := 32) (start₁ := 0) rfl, BitVec.extractLsb'_eq_self]

/-- `DATA` of CTRL is its ignored bits and the START bit. -/
theorem ctrlData_fields (d : Word32) : d.extractLsb' 1 31 ++ d.extractLsb' 0 1 = d := by
  rw [BitVec.extractLsb'_append_extractLsb'_eq_extractLsb' (start₂ := 1) (start₁ := 0) rfl, BitVec.extractLsb'_eq_self]

/-- A write of CTRL is told by the lowest bit of `DATA`. -/
theorem decodeHt_ctrl (e : BitVec 31) (b : BitVec 1) :
    decodeHt (htWord 1#1 0#3 (e ++ b)) = if b = 1#1 then .start e else .wrCtrlNop e := by
  have hlow : (e ++ b).extractLsb' 0 1 = b := BitVec.extractLsb'_append_eq_right
  have hhigh : (e ++ b).extractLsb' 1 31 = e := BitVec.extractLsb'_append_eq_left
  simp [decodeHt, hlow, hhigh]

/-! ### Format EC (R64, R65) -/

@[simp] theorem ecOp_ecHeader (op : BitVec 2) (len : Byte) : ecOp (ecHeader op len) = op :=
  BitVec.extractLsb'_append_eq_left

@[simp] theorem ecLen_ecHeader (op : BitVec 2) (len : Byte) : ecLen (ecHeader op len) = len :=
  BitVec.extractLsb'_append_eq_right

@[simp] theorem decodeEc_init (len : Byte) (blk : BitVec 1024) : decodeEc (ecHeader 0#2 len) blk = .init len := by
  simp [decodeEc]

@[simp] theorem decodeEc_updateMulti (len : Byte) (blk : BitVec 1024) :
    decodeEc (ecHeader 1#2 len) blk = .updateMulti len blk := by
  simp [decodeEc]

@[simp] theorem decodeEc_updateLast (len : Byte) (blk : BitVec 1024) :
    decodeEc (ecHeader 2#2 len) blk = .updateLast len blk := by
  simp [decodeEc]

@[simp] theorem decodeEc_finish (len : Byte) (blk : BitVec 1024) : decodeEc (ecHeader 3#2 len) blk = .finish len := by
  simp [decodeEc]

/-- Settles O5: by the fields of a header. -/
theorem engineCommandMap : Obligations.EngineCommandMap := fun len blk =>
  ⟨congrArg Except.ok (decodeEc_init len blk), congrArg Except.ok (decodeEc_updateMulti len blk),
    congrArg Except.ok (decodeEc_updateLast len blk), congrArg Except.ok (decodeEc_finish len blk)⟩

/-! ### The round trips -/

/-- The decoder undoes the encoder: by format, from the fields of the word. -/
theorem decode_encode (i : Instr) : decode (encode i) = .ok i := by
  cases i with
  | start e | wrCtrlNop e => simp [encode, decode, decodeHt_ctrl]
  | wrStatus | wrKeyLen | wrDataLen | wrKeyCap | wrDataCap | wrDstCap | wrRsvd7
  | rdCtrl | rdStatus | rdKeyLen | rdDataLen | rdKeyCap | rdDataCap | rdDstCap | rdRsvd7 =>
    simp [encode, decode, decodeHt]
  | init | updateMulti | updateLast | finish => simp [encode, decode]
  | _ => rfl

/-- Settles O1: by the format of the instruction. -/
theorem decodeUndoesEncode : Obligations.DecodeUndoesEncode := decode_encode

/-- The encoder undoes the decoder on format HT: no bit of a word is lost (log 19). -/
theorem encode_decodeHt (w : BitVec 36) : encode (decodeHt w) = .ht w := by
  have bit : ∀ b : BitVec 1, b = 0#1 ∨ b = 1#1 := by decide
  have regs : ∀ r : BitVec 3, r = 0#3 ∨ r = 1#3 ∨ r = 2#3 ∨ r = 3#3 ∨ r = 4#3 ∨ r = 5#3 ∨ r = 6#3 ∨ r = 7#3 := by
    decide
  rw [← htWord_fields w]
  generalize htW w = x, htReg w = r, htData w = d
  rcases bit x with rfl | rfl
  · rcases regs r with rfl | rfl | rfl | rfl | rfl | rfl | rfl | rfl <;> simp [decodeHt, encode]
  · rcases regs r with rfl | hr
    · rw [← ctrlData_fields d, decodeHt_ctrl]
      rcases bit (d.extractLsb' 0 1) with hb | hb <;> rw [hb] <;> rfl
    · rcases hr with rfl | rfl | rfl | rfl | rfl | rfl | rfl <;> simp [decodeHt, encode]

/-- An HT word is the code of one instruction only, the one it decodes to. -/
theorem encode_eq_ht_iff {j : Instr} {w : BitVec 36} : encode j = .ht w ↔ j = decodeHt w := by
  constructor
  · intro h
    have hj : decode (.ht w) = .ok j := h ▸ decode_encode j
    exact (Except.ok.inj hj).symm
  · rintro rfl
    exact encode_decodeHt w

/-- Settles O3: the rows are the encoder's, which the decoder undoes; each word is the code of what it decodes to. -/
theorem hostTransactionMap : Obligations.HostTransactionMap :=
  ⟨fun d => ⟨decode_encode (.start d), decode_encode (.wrCtrlNop d)⟩,
    fun d => ⟨decode_encode (.wrStatus d), decode_encode (.wrKeyLen d), decode_encode (.wrDataLen d),
      decode_encode (.wrKeyCap d), decode_encode (.wrDataCap d), decode_encode (.wrDstCap d),
      decode_encode (.wrRsvd7 d), decode_encode (.rdCtrl d), decode_encode (.rdStatus d),
      decode_encode (.rdKeyLen d), decode_encode (.rdDataLen d), decode_encode (.rdKeyCap d),
      decode_encode (.rdDataCap d), decode_encode (.rdDstCap d), decode_encode (.rdRsvd7 d)⟩,
    fun w => ⟨decodeHt w, rfl, fun _ => encode_eq_ht_iff⟩⟩

/-! ### Codes as bytes (log 13) -/

theorem fitBits_toNat {w : Nat} (v : BitVec w) : fitBits w v.toNat = .ok v := by
  rw [fitBits, if_pos v.isLt, BitVec.ofNat_toNat, BitVec.setWidth_eq]

/-- The bytes of a word give it back where they have room for its bits. -/
theorem leNat_leBytes_toNat {w n : Nat} (h : w ≤ 8 * n) (v : BitVec w) : leNat (leBytes n v.toNat) = v.toNat := by
  rw [leNat_leBytes, Nat.mod_eq_of_lt (v.isLt.trans_le (Nat.pow_le_pow_right (by decide) h))]

@[simp] theorem length_codeBytes (c : Code) : (codeBytes c).length = c.format.bytes := by
  cases c <;> simp [codeBytes, Code.format, Format.bytes]

/-- The head of a list that begins with the bytes of a code is that code. -/
theorem codeOfBytes_codeBytes (c : Code) (rest : List Byte) :
    codeOfBytes c.format (codeBytes c ++ rest) = .ok c := by
  have hlen : ¬ (codeBytes c ++ rest).length < c.format.bytes := by simp
  unfold codeOfBytes
  rw [if_neg hlen]
  cases c with
  | ht w =>
    have htake : (leBytes 5 w.toNat ++ rest).take 5 = leBytes 5 w.toNat := List.take_left' (by simp)
    simp only [Code.format, codeBytes, htake, leNat_leBytes_toNat (n := 5) (by decide) w, fitBits_toNat]
    rfl
  | ph p =>
    have htake : (leBytes 1 p.toNat ++ rest).take 1 = leBytes 1 p.toNat := List.take_left' (by simp)
    simp only [Code.format, codeBytes, htake, leNat_leBytes_toNat (n := 1) (by decide) p, fitBits_toNat]
    rfl
  | ec hdr blk =>
    have htake (l : List Byte) : (leBytes 2 hdr.toNat ++ l).take 2 = leBytes 2 hdr.toNat := List.take_left' (by simp)
    have hdrop (l : List Byte) : (leBytes 2 hdr.toNat ++ l).drop 2 = l := List.drop_left' (by simp)
    have hbus : (leBytes 128 blk.toNat ++ rest).take 128 = leBytes 128 blk.toNat := List.take_left' (by simp)
    simp only [Code.format, codeBytes, List.append_assoc, htake, hdrop, hbus,
      leNat_leBytes_toNat (n := 2) (by decide) hdr, leNat_leBytes_toNat (n := 128) (by decide) blk, fitBits_toNat,
      BitVec.ofNat_toNat, BitVec.setWidth_eq]
    rfl

/-- Settles O2: the code comes back from its bytes, the instruction from its code. -/
theorem decodeBytesUndoesEncodeBytes : Obligations.DecodeBytesUndoesEncodeBytes := by
  intro i rest
  have hrest : (encodeBytes i ++ rest).drop (encode i).format.bytes = rest :=
    List.drop_left' (length_codeBytes _)
  simp only [decodeBytes, encodeBytes, codeOfBytes_codeBytes, decode_encode]
  exact congrArg (fun l => Except.ok (i, l)) hrest

/-- Settles O6: each word is evaluated. -/
theorem tableWordsDecode : Obligations.TableWordsDecode := by
  unfold Obligations.TableWordsDecode
  decide +kernel

end Sys2Proof

/-! SUPPORT. Phase codes, the instructions of every code, and the commands the sequencer issues. -/

namespace Sys2Proof.Machine

variable {σ : Type}

/-! ### Phase codes (30_encoding R63, R68) -/

theorem decode_ph_reserved_iff (c : BitVec 5) :
    decode (.ph c) = .error .reservedPhase ↔ 0x15 ≤ c.toNat ∧ c.toNat ≤ 0x1E := by
  revert c; decide

/-- A micro-operation that completes names no phase of a lower code, RETIRE's return to IDLE apart. -/
theorem MicroOpEffect.code_le {E : Engine σ} {p : Phase} {s t : State.Of σ} (e : MicroOpEffect E s p t)
    (hp : s.ph = p) (hr : p ≠ .retire) : p.code.toNat ≤ t.ph.code.toNat := by
  cases e with
  | idle | faulted => rw [hp]
  | retire => exact absurd rfl hr
  | kbClear | khMulti | inInit | inPadMulti | inMsgMulti => rw [setPh_ph]; split <;> decide
  | _ => rw [setPh_ph]; decide

/-- Settles O4: by the 22 phases, the 32 codes, and the effect of each micro-operation. -/
theorem phaseCodeTable : Obligations.PhaseCodeTable :=
  ⟨rfl, decode_phase_code, decode_ph_reserved_iff,
    fun _ _ hr h => (microOp_eq_ok.mp h).code_le rfl hr⟩

/-! ### Every instruction answers (30_encoding R61, R67; 60_exceptions R205) -/

/-- An instruction is what its code decodes to, and every code's instruction answers, whatever the engine. -/
theorem execFor_next (E : Engine σ) (i : Instr) (s : State.Of σ) : ∃ t, execFor E i s = .next t := by
  have hd := decode_encode i
  cases hc : encode i with rw [hc] at hd
  | ht w =>
    obtain rfl := Except.ok.inj hd
    exact (execFor_decodeHt E w s).imp fun _ h => h.1
  | ph c =>
    obtain ⟨p, -, rfl⟩ := decodePh_eq_ok hd
    exact (execFor_phase_effect E p s).imp fun _ h => h.1
  | ec hdr blk =>
    obtain rfl := Except.ok.inj hd
    exact (execFor_decodeEc E hdr blk s).imp fun _ h => h.1

/-- Settles O50: by the format of the instruction's code. -/
theorem everyInstructionAnswersANextState : Obligations.EveryInstructionAnswersANextState := fun i s => by
  simpa only [exec_eq_execFor] using execFor_next engine i s

/-! ### The port's checks (30_encoding R69; 42_hash_engine_port R116) -/

/-- Settles O41: each command's port operation raises ENGINE_ASSERT. -/
theorem portRejectsIllegalCommands : Obligations.PortRejectsIllegalCommands := by
  intro s len blk f
  have fault {r : Except FaultCause State} (h : r = .error .engineAssert) : commit s r = f := by rw [h]; rfl
  refine ⟨fun h => fault (portInit_eq_error.mpr ⟨h, rfl⟩),
    fun h => fault (portUpdateMulti_eq_error.mpr ⟨.inl ?_, rfl⟩),
    fun h => fault (portUpdateLast_eq_error.mpr ⟨.inl ?_, rfl⟩),
    fun h => fault (finishCommand_eq_error.mpr ⟨.inl ?_, rfl⟩)⟩
  · exact not_and_or.mpr h
  · exact not_and_or.mpr (h.imp_right Nat.not_le.mpr)
  · exact not_and_or.mpr h

/-! ### The commands the sequencer issues (42_hash_engine_port R110; 95_test_vectors ENC2) -/

/-- With some bus content the command of header `hdr`, run as an instruction, leaves these `H`, `HS` and `CTR`, and PH as
it was (log 2). -/
def CommandLeaves (E : Engine σ) (hdr : BitVec 10) (s : State.Of σ) (h : Option σ) (life : HashLife)
    (ctr : Option U128) : Prop :=
  ∃ blk u, execFor E (decodeEc hdr blk) s = .next u ∧ u.ph = s.ph ∧ u.h = h ∧ u.hs = life ∧ u.ctr = ctr

/-- A command whose port operation completes and keeps PH leaves what the operation does. -/
theorem CommandLeaves.of_port {E : Engine σ} {hdr : BitVec 10} {blk : BitVec 1024} {i : Instr} {s u : State.Of σ}
    {r : Except FaultCause (State.Of σ)} (hd : decodeEc hdr blk = i) (hi : execFor E i s = commit s r)
    (hr : r = .ok u) (hp : u.ph = s.ph) : CommandLeaves E hdr s u.h u.hs u.ctr :=
  ⟨blk, u, by rw [hd, hi, hr, commit_ok], hp, rfl, rfl, rfl⟩

theorem commandLeaves_init (E : Engine σ) (s : State.Of σ) :
    CommandLeaves E (ecHeader 0#2 0) s (some E.init) .absorbing (some 0) :=
  .of_port (decodeEc_init 0 0) rfl (portInit_eq_ok.mpr ⟨rfl, rfl⟩) rfl

/-- All 128 lanes of a bus that carries a block are that block (30_encoding R64). -/
theorem laneBlock_busOf (b : Block) : laneBlock (busOf 1024 b.toList) = b := by
  have hlanes := laneBytes_busOf (w := 1024) (l := b.toList) (by simp)
  rw [b.length_toList] at hlanes
  exact Bytes.ext hlanes

theorem commandLeaves_updateMulti (E : Engine σ) {s : State.Of σ} {h : σ} {c : U128} (hh : s.h = some h)
    (hc : s.ctr = some c) (hs : s.hs = .absorbing) (b : Block) :
    CommandLeaves E (ecHeader 1#2 128) s (some (E.updateMulti h c b).1) .absorbing (some (E.updateMulti h c b).2) := by
  have hbus : execFor E (.updateMulti 128 (busOf 1024 b.toList)) s = commit s (portUpdateMulti E 128 b s) :=
    congrArg (fun x => commit s (portUpdateMulti E 128 x s)) (laneBlock_busOf b)
  exact .of_port (decodeEc_updateMulti 128 _) hbus (portUpdateMulti_eq_ok.mpr ⟨⟨hs, rfl⟩, h, c, hh, hc, rfl⟩) rfl

theorem commandLeaves_updateLast (E : Engine σ) {s : State.Of σ} {h : σ} {c : U128} (hh : s.h = some h)
    (hc : s.ctr = some c) (hs : s.hs = .absorbing) {len : Byte} {chunk : List Byte} (hlen : chunk.length = len.toNat)
    (hle : len.toNat ≤ 128) : CommandLeaves E (ecHeader 2#2 len) s (some (E.updateLast h c chunk).1) .final
      (some (E.updateLast h c chunk).2) := by
  have hlanes : laneBytes (busOf 1024 chunk) len.toNat = chunk := by
    rw [← hlen]; exact laneBytes_busOf (by omega)
  have hbus : execFor E (.updateLast len (busOf 1024 chunk)) s = commit s (portUpdateLast E len chunk s) :=
    congrArg (fun x => commit s (portUpdateLast E len x s)) hlanes
  exact .of_port (decodeEc_updateLast len _) hbus (portUpdateLast_eq_ok.mpr ⟨⟨hs, hle⟩, h, c, hh, hc, rfl⟩) rfl

theorem commandLeaves_finish (E : Engine σ) {s : State.Of σ} {h : σ} {c : U128} (hh : s.h = some h)
    (hc : s.ctr = some c) (hs : s.hs = .final) : CommandLeaves E (ecHeader 3#2 0) s none .empty s.ctr :=
  .of_port (decodeEc_finish 0 0) rfl (finishCommand_eq_ok.mpr ⟨⟨hs, rfl⟩, h, c, hh, hc, rfl⟩) rfl

/-- A chunk of at most 128 bytes keeps its length in the eight bits of `LEN` (30_encoding R64). -/
theorem toNat_chunkLen {r : Word32} (h : r.toNat ≤ 128) : (r.setWidth 8 : Byte).toNat = r.toNat := by
  rw [BitVec.toNat_setWidth, Nat.mod_eq_of_lt (by omega)]

/-- A last chunk read from a space goes out with its length in `LEN` (40_key_normalizer R86, 43_orchestrator R154). -/
theorem commandLeaves_lastChunk (E : Engine σ) {s : State.Of σ} {h : σ} {c : U128} (hh : s.h = some h)
    (hc : s.ctr = some c) (hs : s.hs = .absorbing) {r : Word32} (hr : r.toNat ≤ 128) (m : Memory) (off : Nat) :
    CommandLeaves E (ecHeader 2#2 (r.setWidth 8)) s (some (E.updateLast h c (m.readBytes off r.toNat)).1) .final
      (some (E.updateLast h c (m.readBytes off r.toNat)).2) := by
  have hlen := toNat_chunkLen hr
  exact commandLeaves_updateLast E hh hc hs ((Memory.length_readBytes ..).trans hlen.symm) (by omega)

/-- A micro-operation that issues a command writes `H`, `HS` and `CTR` as the command does. -/
theorem MicroOpEffect.as_command {E : Engine σ} {p : Phase} {s t : State.Of σ} (e : MicroOpEffect E s p t)
    {hdr : BitVec 10} (hi : issuedHeader p s = some hdr) : CommandLeaves E hdr s t.h t.hs t.ctr := by
  cases e with
  | idle | check | kbClear | knCopy | pdIpad | pdOpad | retire | faulted => cases hi
  | khInit | inInit | outInit => cases hi; exact commandLeaves_init E s
  | khMulti _ _ _ blk _ hh hc hs | inMsgMulti _ _ _ blk _ hh hc hs =>
    cases hi; exact commandLeaves_updateMulti E hh hc hs blk
  | inPadMulti pad _ _ _ _ _ hh hc hs | outPadMulti pad _ _ _ hh hc hs =>
    cases hi; exact commandLeaves_updateMulti E hh hc hs pad
  | khLast off _ _ ho hh hc hs hr | inMsgLast off _ _ ho hh hc hs hr =>
    rw [issuedHeader, ho] at hi
    cases hi; exact commandLeaves_lastChunk E hh hc hs hr _ _
  | inPadLast pad _ _ _ hh hc hs =>
    cases hi; exact commandLeaves_updateLast E hh hc hs pad.length_toList (by decide)
  | outDigLast d _ _ _ hh hc hs =>
    cases hi; exact commandLeaves_updateLast E hh hc hs d.length_toList (by decide)
  | khFinish _ _ _ _ hh hc hs | inFinish _ _ hh hc hs | outFinish _ _ hh hc hs =>
    cases hi; exact commandLeaves_finish E hh hc hs

/-- Settles O42: the bus carries the block or the chunk of the micro-operation, and 0 for INIT and FINISH. -/
theorem microOpsIssueTheirEngineCommand : Obligations.MicroOpsIssueTheirEngineCommand := by
  intro p s t hdr hi h
  obtain ⟨blk, u, hu⟩ := (microOp_eq_ok.mp h).as_command hi
  exact ⟨blk, u, by simpa only [exec_eq_execFor] using hu⟩

/-- An UPDATE_LAST of 1 to 128 bytes is legal and not the one of no bytes (30_encoding R65, 43_orchestrator R163). -/
theorem updateLast_header_legal {len : Byte} (h0 : len ≠ 0) (h : len.toNat ≤ 128) (blk : BitVec 1024) :
    (decodeEc (ecHeader 2#2 len) blk).wf = true ∧ decodeEc (ecHeader 2#2 len) blk ≠ .updateLast 0 blk := by
  rw [decodeEc_updateLast]
  exact ⟨decide_eq_true h, fun e => h0 (Instr.updateLast.inj e).1⟩

/-- What is left of an operand where at most a block is left, and not nothing. -/
theorem lastChunk_header_legal {len off : Word32} (hlt : off.toNat < len.toNat) (hle : len.toNat ≤ off.toNat + 128)
    (blk : BitVec 1024) : (decodeEc (ecHeader 2#2 ((len - off).setWidth 8)) blk).wf = true ∧
      decodeEc (ecHeader 2#2 ((len - off).setWidth 8)) blk ≠ .updateLast 0 blk := by
  have hsub : (len - off).toNat = len.toNat - off.toNat :=
    BitVec.toNat_sub_of_le (BitVec.le_def.mpr (Nat.le_of_lt hlt))
  have hlen := toNat_chunkLen (r := len - off) (by omega)
  refine updateLast_header_legal (fun h0 => ?_) (by omega) blk
  have hzero : ((len - off).setWidth 8 : Byte).toNat = 0 := congrArg BitVec.toNat h0
  omega

/-- In a run the command of a phase is legal and no UPDATE_LAST of no bytes. -/
theorem Inv.issued_legal {s : State.Of σ} (h : Inv s) {hdr : BitVec 10} (hi : issuedHeader s.ph s = some hdr)
    (blk : BitVec 1024) : (decodeEc hdr blk).wf = true ∧ decodeEc hdr blk ≠ .updateLast 0 blk := by
  cases hp : s.ph with rw [hp] at hi
  | idle | check | kbClear | knCopy | pdIpad | pdOpad | retire | faulted => cases hi
  | khInit | inInit | outInit | khMulti | inPadMulti | inMsgMulti | outPadMulti | khFinish | inFinish | outFinish =>
    cases hi; simp [Instr.wf]
  | inPadLast | outDigLast => cases hi; exact updateLast_header_legal (by decide) (by decide) blk
  | khLast =>
    obtain ⟨off, c, ho, -, -, -, hlt, hle, -⟩ := h.counters hp rfl
    rw [issuedHeader, ho] at hi
    cases hi; exact lastChunk_header_legal hlt hle blk
  | inMsgLast =>
    obtain ⟨off, c, ho, -, -, -, hlt, hle⟩ := h.counters hp rfl
    rw [issuedHeader, ho] at hi
    cases hi; exact lastChunk_header_legal hlt hle blk

/-- Settles O46: the constant headers by their fields, the last chunks by the offsets the invariant fixes. -/
theorem issuedCommandsAreLegal : Obligations.IssuedCommandsAreLegal := fun _ _ blk h hi => h.issued_legal hi blk

end Sys2Proof.Machine

/-! SUPPORT. The key normalizer: what each of its micro-operations leaves where it is entered, for every engine, and its
run from KB_CLEAR to PD_IPAD (spec/40_key_normalizer.md R82 to R91). -/

namespace Sys2Proof.Machine

variable {σ : Type}

/-! ### The micro-operations of the key normalizer (40_key_normalizer R82 to R87) -/

/-- Bytes that fit are put in front of the bytes they leave. -/
theorem overwrite_eq_ofList {n : Nat} (x : Bytes n) {l : List Byte} (h : l.length ≤ n) :
    overwrite x l = Bytes.ofList n (l ++ x.toList.drop l.length) := by
  have hlen : (l ++ x.toList.drop l.length).length = n := by
    rw [List.length_append, List.length_drop, x.length_toList]; omega
  refine Bytes.ext ?_
  rw [overwrite_toList, Bytes.ofList_of_length hlen, List.take_of_length_le (Nat.le_of_eq hlen)]

theorem MicroOpEffect.khMulti_of_more {E : Engine σ} {s : State.Of σ} {off : Word32} {h : σ} {c : U128}
    (ho : s.off = some off) (hh : s.h = some h) (hc : s.ctr = some c) (hs : s.hs = .absorbing)
    (hlt : off.toNat + 128 < s.keyLen.toNat) (hcap : off.toNat + 128 ≤ s.keyCap.toNat) :
    MicroOpEffect E s .khMulti
      (let r := E.updateMulti h c (Bytes.ofList 128 (Memory.readBytes s.keyMem off.toNat 128))
       { s with
        h := some r.1, ctr := some r.2, off := some (off + 128),
        ph := if 128 < s.keyLen.toNat - (off.toNat + 128) then .khMulti else .khLast }) := by
  have hoff := toNat_advance hlt
  have hmore : moreThanBlock s.keyLen (off + 128) = true ↔ 128 < s.keyLen.toNat - (off.toNat + 128) := by
    rw [moreThanBlock_iff (by omega), hoff]; omega
  have e := MicroOpEffect.khMulti (E := E) off h c _ ho hh hc hs hcap
    (Bytes.ofList_of_length (Memory.length_readBytes ..))
  rw [← hs, if_congr hmore rfl rfl] at e
  exact e

theorem MicroOpEffect.khLast_of_last {E : Engine σ} {s : State.Of σ} {off : Word32} {h : σ} {c : U128}
    (ho : s.off = some off) (hh : s.h = some h) (hc : s.ctr = some c) (hs : s.hs = .absorbing)
    (hlt : off.toNat < s.keyLen.toNat) (hle : s.keyLen.toNat ≤ off.toNat + 128)
    (hcap : s.keyLen.toNat ≤ s.keyCap.toNat) :
    MicroOpEffect E s .khLast
      (let r := E.updateLast h c (Memory.readBytes s.keyMem off.toNat (s.keyLen.toNat - off.toNat))
       { s with h := some r.1, hs := .final, ctr := some r.2, off := some s.keyLen, ph := .khFinish }) := by
  have hsub : (s.keyLen - off).toNat = s.keyLen.toNat - off.toNat :=
    BitVec.toNat_sub_of_le (BitVec.le_def.mpr (Nat.le_of_lt hlt))
  have e := MicroOpEffect.khLast (E := E) off h c ho hh hc hs (by omega) (by omega)
  rw [hsub, add_sub_cancel] at e
  exact e

theorem MicroOpEffect.khFinish_digest {E : Engine σ} {s : State.Of σ} {kb : Block} {h : σ} {c : U128}
    (hk : s.keyblk = some kb) (hh : s.h = some h) (hc : s.ctr = some c) (hs : s.hs = .final) :
    MicroOpEffect E s .khFinish { s with
      keyblk := some (Bytes.ofList 128 ((E.finish h c).toList ++ kb.toList.drop 64)),
      h := none, hs := .empty, ph := .pdIpad } := by
  have hlen := (E.finish h c).toList_length
  have e := MicroOpEffect.khFinish (E := E) kb h c hk hh hc hs
  rw [overwrite_eq_ofList kb (by omega), hlen] at e
  exact e

/-- Settles O27: KB_CLEAR in every state, KN_COPY where its read is in bounds. -/
theorem shortKeysAreCopied : Obligations.ShortKeysAreCopied := by
  refine ⟨fun s => ?_, fun s kb hk hle hcap => ?_⟩
  · rw [← if_congr keyIsShort_iff rfl rfl]
    exact MicroOpEffect.kbClear.exec_eq
  · have e := (MicroOpEffect.knCopy (E := engine) kb hk hle hcap).exec_eq
    rw [overwrite_eq_ofList kb (by rwa [Memory.length_readBytes]), Memory.length_readBytes] at e
    exact e

/-- Settles O28: the port's INIT is ready in every state; IN_INIT's branch is the comparison with 0. -/
theorem initPhasesMakeAFreshState : Obligations.InitPhasesMakeAFreshState := by
  intro s
  refine ⟨MicroOpEffect.khInit.exec_eq, ?_, MicroOpEffect.outInit.exec_eq⟩
  have hempty : messageIsEmpty s.dataLen = true ↔ s.dataLen = 0 := beq_iff_eq
  rw [← if_congr hempty rfl rfl]
  exact MicroOpEffect.inInit.exec_eq

/-- Settles O29: the effect of KH_MULTI, the branch on the advanced offset. -/
theorem khMultiAbsorbsOneBlock : Obligations.KhMultiAbsorbsOneBlock :=
  fun _ _ _ _ ho hh hc hs hlt hcap => (MicroOpEffect.khMulti_of_more ho hh hc hs hlt hcap).exec_eq

/-- Settles O30: the effect of KH_LAST, the chunk being the whole rest of the key. -/
theorem khLastAbsorbsTheLastChunk : Obligations.KhLastAbsorbsTheLastChunk :=
  fun _ _ _ _ ho hh hc hs hlt hle hcap => (MicroOpEffect.khLast_of_last ho hh hc hs hlt hle hcap).exec_eq

/-- Settles O31: the effects of KH_FINISH and IN_FINISH. -/
theorem finishPhasesExtractTheDigest : Obligations.FinishPhasesExtractTheDigest :=
  fun _ h c hh hc hs => ⟨fun _ hk => (MicroOpEffect.khFinish_digest hk hh hc hs).exec_eq,
    (MicroOpEffect.inFinish h c hh hc hs).exec_eq⟩

/-! ### Runs that do not meet a phase -/

/-- `n` sequencer steps take `s` to `t`, and no state before `t` is at phase `q`. -/
structure RunsAvoiding (E : Engine σ) (q : Phase) (n : Nat) (s t : State.Of σ) : Prop where
  reaches : seqRun E n s = .ok t
  avoids : ∀ j, j < n → ∃ u, seqRun E j s = .ok u ∧ u.ph ≠ q

theorem RunsAvoiding.single {E : Engine σ} {p q : Phase} {s t : State.Of σ} (e : MicroOpEffect E s p t)
    (hp : s.ph = p) (hq : p ≠ q) : RunsAvoiding E q 1 s t := by
  subst hp
  refine ⟨by rw [seqRun_succ_ok (microOp_eq_ok.mpr e), seqRun_zero], fun j hj => ?_⟩
  obtain rfl := Nat.lt_one_iff.mp hj
  exact ⟨s, rfl, hq⟩

theorem RunsAvoiding.trans {E : Engine σ} {q : Phase} {m n : Nat} {s t u : State.Of σ}
    (hst : RunsAvoiding E q m s t) (htu : RunsAvoiding E q n t u) : RunsAvoiding E q (m + n) s u := by
  refine ⟨(seqRun_add hst.reaches).trans htu.reaches, fun j hj => ?_⟩
  rcases Nat.lt_or_ge j m with hlt | hge
  · exact hst.avoids j hlt
  · obtain ⟨k, rfl⟩ := Nat.exists_eq_add_of_le hge
    rw [seqRun_add hst.reaches]
    exact htu.avoids k (by omega)

/-! ### Hashing an operand of a space (40_key_normalizer R88; 43_orchestrator R142) -/

/-- `s` at phase `p` with `hc` in `H` and `CTR`, `HS` at `life` and `OFF` at `off`. -/
def State.Of.hashingAt (s : State.Of σ) (p : Phase) (life : HashLife) (hc : σ × U128) (off : Word32) : State.Of σ :=
  { s with h := some hc.1, hs := life, ctr := some hc.2, off := some off, ph := p }

/-- Over the other registers of `s`, the phases `multi` and `last` absorb an operand of `len` bytes that stands in `m`:
`multi` one whole block that is not the last, `last` the last chunk, which leads to `next`. -/
structure AbsorbPhases (E : Engine σ) (s : State.Of σ) (m : Memory) (len : Word32) (multi last next : Phase) :
    Prop where
  block : ∀ hc off, off.toNat + 128 < len.toNat → MicroOpEffect E (s.hashingAt multi .absorbing hc off) multi
    (s.hashingAt (if 128 < len.toNat - (off.toNat + 128) then multi else last) .absorbing
      (E.updateMulti hc.1 hc.2 (Bytes.ofList 128 (Memory.readBytes m off.toNat 128))) (off + 128))
  chunk : ∀ hc off, off.toNat < len.toNat → len.toNat ≤ off.toNat + 128 →
    MicroOpEffect E (s.hashingAt last .absorbing hc off) last (s.hashingAt next .final
      (E.updateLast hc.1 hc.2 (Memory.readBytes m off.toNat (len.toNat - off.toNat))) len)

theorem absorbPhases_key (E : Engine σ) {s : State.Of σ} (hcap : s.keyLen.toNat ≤ s.keyCap.toNat) :
    AbsorbPhases E s s.keyMem s.keyLen .khMulti .khLast .khFinish where
  block _ _ hlt := .khMulti_of_more rfl rfl rfl rfl hlt (Nat.le_trans (Nat.le_of_lt hlt) hcap)
  chunk _ _ hlt hle := .khLast_of_last rfl rfl rfl rfl hlt hle hcap

/-- Absorbing a block first, and then the rest of a stretch of memory. -/
theorem absorb_succ_readBytes (E : Engine σ) (n : Nat) (hc : σ × U128) (m : Memory) (off k : Nat) :
    absorb E (n + 1) hc (Memory.readBytes m off (128 + k)) =
      absorb E n (E.updateMulti hc.1 hc.2 (Bytes.ofList 128 (Memory.readBytes m off 128)))
        (Memory.readBytes m (off + 128) k) := by
  have hlen := Memory.length_readBytes m off 128
  rw [Memory.readBytes_add, absorb, List.take_left' hlen, List.drop_left' hlen]

/-- `n` whole blocks and a last chunk are absorbed in `n + 1` steps, as R118's `absorb` does. -/
theorem AbsorbPhases.run {E : Engine σ} {s : State.Of σ} {m : Memory} {len : Word32} {multi last next q : Phase}
    (ph : AbsorbPhases E s m len multi last next) (hm : multi ≠ q) (hl : last ≠ q) {n : Nat} (hc : σ × U128)
    {off : Word32} (hlt : off.toNat + 128 * n < len.toNat) (hle : len.toNat ≤ off.toNat + 128 * n + 128) :
    RunsAvoiding E q (n + 1)
      (s.hashingAt (if 128 < len.toNat - off.toNat then multi else last) .absorbing hc off)
      (s.hashingAt next .final (absorb E n hc (Memory.readBytes m off.toNat (len.toNat - off.toNat))) len) := by
  induction n generalizing hc off with
  | zero =>
    rw [if_neg (by omega)]
    exact .single (ph.chunk hc off hlt hle) rfl hl
  | succ n ih =>
    have hmore : off.toNat + 128 < len.toNat := by omega
    have hoff := toNat_advance hmore
    have hrest : len.toNat - off.toNat = 128 + (len.toNat - (off + 128).toNat) := by omega
    have hblock := ph.block hc off hmore
    rw [if_pos (by omega), hrest, absorb_succ_readBytes, Nat.add_comm (n + 1) 1, ← hoff]
    rw [← hoff] at hblock
    exact (RunsAvoiding.single hblock rfl hm).trans (ih _ (by omega) (by omega))

/-! ### The run of the key normalizer (40_key_normalizer R89, R91) -/

@[simp] theorem length_keyBytes (s : State.Of σ) : (keyBytes s).length = s.keyLen.toNat :=
  Memory.length_readBytes ..

/-- A short key is copied over the zeros of KB_CLEAR. -/
theorem normalizer_run_short {E : Engine σ} {s : State.Of σ} (hp : s.ph = .kbClear)
    (hcap : s.keyLen.toNat ≤ s.keyCap.toNat) (hshort : s.keyLen.toNat ≤ 128) :
    RunsAvoiding E .pdIpad 2 s { s with keyblk := some (normalize E (keyBytes s)), ph := .pdIpad } := by
  have hclear := MicroOpEffect.kbClear (E := E) (s := s)
  rw [if_pos (keyIsShort_iff.mpr hshort)] at hclear
  have hcopy := MicroOpEffect.knCopy (E := E) (s := { s with keyblk := some (Bytes.zeros 128), ph := .knCopy })
    _ rfl hshort hcap
  rw [overwrite_zeros (by rwa [Memory.length_readBytes])] at hcopy
  rw [normalize, if_pos (by rwa [length_keyBytes])]
  exact (RunsAvoiding.single hclear hp (by decide)).trans (.single hcopy rfl (by decide))

/-- A key of more than one block is hashed, from KH_INIT on, and its digest put in front of the key block (R88); `H` is
consumed, and `OFF` is left at the end of the key. -/
theorem keyHash_run {E : Engine σ} {s : State.Of σ} {kb : Block} (hp : s.ph = .khInit) (hk : s.keyblk = some kb)
    (hcap : s.keyLen.toNat ≤ s.keyCap.toNat) (hlong : 128 < s.keyLen.toNat) :
    RunsAvoiding E .pdIpad (3 + (s.keyLen.toNat - 1) / 128) s { s with
      keyblk := some (overwrite kb (hash E (keyBytes s)).toList), h := none, hs := .empty,
      ctr := some (absorb E ((s.keyLen.toNat - 1) / 128) (E.init, 0) (keyBytes s)).2, off := some s.keyLen,
      ph := .pdIpad } := by
  have hblocks : 128 * ((s.keyLen.toNat - 1) / 128) < s.keyLen.toNat ∧
      s.keyLen.toNat ≤ 128 * ((s.keyLen.toNat - 1) / 128) + 128 := by omega
  have hinit : RunsAvoiding E .pdIpad 1 s (s.hashingAt .khMulti .absorbing (E.init, 0) 0) :=
    .single .khInit hp (by decide)
  have habsorb := (absorbPhases_key E hcap).run (q := .pdIpad) (by decide) (by decide) (E.init, 0) (off := 0)
    (by simpa using hblocks.1) (by simpa using hblocks.2)
  have hfinish := MicroOpEffect.khFinish (E := E) (s := s.hashingAt .khFinish .final
    (absorb E ((s.keyLen.toNat - 1) / 128) (E.init, 0) (keyBytes s)) s.keyLen) kb _ _ hk rfl rfl rfl
  rw [if_pos (by simpa using hlong)] at habsorb
  rw [hash, length_keyBytes, show 3 + (s.keyLen.toNat - 1) / 128 = 1 + ((s.keyLen.toNat - 1) / 128 + 1 + 1) by omega]
  exact hinit.trans (habsorb.trans (.single hfinish rfl (by decide)))

/-- The digest of a long key is put over the zeros of KB_CLEAR. -/
theorem normalizer_run_long {E : Engine σ} {s : State.Of σ} (hp : s.ph = .kbClear)
    (hcap : s.keyLen.toNat ≤ s.keyCap.toNat) (hlong : 128 < s.keyLen.toNat) :
    RunsAvoiding E .pdIpad (4 + (s.keyLen.toNat - 1) / 128) s { s with
      keyblk := some (normalize E (keyBytes s)), h := none, hs := .empty,
      ctr := some (absorb E ((s.keyLen.toNat - 1) / 128) (E.init, 0) (keyBytes s)).2, off := some s.keyLen,
      ph := .pdIpad } := by
  have hclear := MicroOpEffect.kbClear (E := E) (s := s)
  rw [if_neg (mt keyIsShort_iff.mp (Nat.not_le.mpr hlong))] at hclear
  have hrun := (RunsAvoiding.single hclear hp (by decide)).trans (keyHash_run rfl rfl hcap hlong)
  rw [overwrite_zeros (by simp), ← Nat.add_assoc] at hrun
  rw [normalize, if_neg (by rw [length_keyBytes]; omega)]
  exact hrun

/-- Settles O56: by the length of the key. -/
theorem normalizerComputesTheKeyBlock : Obligations.NormalizerComputesTheKeyBlock := by
  intro σ E s hp hcap
  unfold normalizerSteps
  split
  · rename_i hshort
    obtain ⟨hreach, hfirst⟩ := normalizer_run_short (E := E) hp hcap hshort
    exact ⟨⟨_, hreach, rfl, rfl⟩, hfirst⟩
  · rename_i hlong
    obtain ⟨hreach, hfirst⟩ := normalizer_run_long (E := E) hp hcap (Nat.lt_of_not_le hlong)
    exact ⟨⟨_, hreach, rfl, rfl⟩, hfirst⟩

end Sys2Proof.Machine

/-! SUPPORT. The pad deriver: what PD_IPAD and PD_OPAD leave, and the bytes of the two pads
(spec/41_pad_deriver.md R100 to R104). -/

namespace Sys2Proof.Machine

/-! ### The bytes of a pad (41_pad_deriver R100, R104) -/

/-- The pad of a key block is as long as the block, so nothing is cut off or filled up. -/
theorem ofList_map_xor {n : Nat} (k : Byte) (x : Bytes n) : Bytes.ofList n (x.toList.map (k ^^^ ·)) = xorPad k x :=
  Bytes.ofList_eq (xorPad k x)

theorem xorPad_get {n i : Nat} (k : Byte) (x : Bytes n) (hi : i < n) : (xorPad k x).get i = k ^^^ x.get i := by
  have hx : i < x.toList.length := by rwa [x.toList_length]
  rw [Bytes.get, Bytes.get, xorPad_toList, List.getD_eq_getElem _ _ (by rwa [List.length_map]), List.getElem_map,
    List.getD_eq_getElem _ _ hx]

/-- A pad xor-ed with its block gives back the constant. -/
theorem xorPad_get_xor_get {n i : Nat} (k : Byte) (x : Bytes n) (hi : i < n) :
    (xorPad k x).get i ^^^ x.get i = k := by
  rw [xorPad_get k x hi, BitVec.xor_assoc, BitVec.xor_self, BitVec.xor_zero]

/-- Between two pads of one block, the block cancels. -/
theorem xorPad_get_xor_xorPad_get {n i : Nat} (k l : Byte) (x : Bytes n) (hi : i < n) :
    (xorPad k x).get i ^^^ (xorPad l x).get i = k ^^^ l := by
  rw [xorPad_get l x hi, BitVec.xor_comm l, ← BitVec.xor_assoc, xorPad_get_xor_get k x hi]

/-! ### PD_IPAD and PD_OPAD (41_pad_deriver R101, R102, R104) -/

/-- Settles O32: the effects of PD_IPAD and PD_OPAD. -/
theorem padPhasesXorTheKeyBlock : Obligations.PadPhasesXorTheKeyBlock := by
  intro s kb hk
  rw [ofList_map_xor, ofList_map_xor]
  exact ⟨(MicroOpEffect.pdIpad kb hk).exec_eq, (MicroOpEffect.pdOpad kb hk).exec_eq⟩

/-- Settles O33: PD_IPAD keeps the key block and PD_OPAD the inner pad, so both pads are of the one block. -/
theorem padsDifferFromTheKeyBlockByTheirConstants : Obligations.PadsDifferFromTheKeyBlockByTheirConstants := by
  intro s kb hk
  have hinner := (MicroOpEffect.pdIpad (E := engine) kb hk).exec_eq
  have houter := (MicroOpEffect.pdOpad (E := engine) (s := (s.setIpad (some (xorPad 0x36 kb))).setPh .pdOpad)
    kb hk).exec_eq
  exact ⟨_, _, xorPad 0x36 kb, xorPad 0x5c kb, hinner, houter, rfl, rfl, fun i hi =>
    ⟨xorPad_get_xor_get _ kb hi, xorPad_get_xor_get _ kb hi, xorPad_get_xor_xorPad_get _ _ kb hi⟩⟩

end Sys2Proof.Machine

/-! SUPPORT. The engine port: what each command, run as an instruction of its own, leaves, for every engine
(spec/42_hash_engine_port.md R111 to R117; log 2). -/

namespace Sys2Proof.Machine

variable {σ : Type}

/-- A command that completes exactly under its requirement leaves its state there, and the fault entry elsewhere
(42_hash_engine_port R116). -/
theorem commit_eq_ite {P : Prop} [Decidable P] {s t : State.Of σ} {r : Except FaultCause (State.Of σ)} {c : FaultCause}
    (ho : P → r = .ok t) (he : ¬ P → r = .error c) : commit s r = .next (if P then t else raiseFault c s) := by
  split
  · rename_i h; rw [ho h, commit_ok]
  · rename_i h; rw [he h, commit_error]

/-- The lanes of `BLK` are as many as a block has bytes, so nothing is cut off or filled up. -/
theorem ofList_laneBytes (blk : BitVec 1024) : Bytes.ofList 128 (laneBytes blk 128) = laneBlock blk :=
  Bytes.ofList_eq (laneBlock blk)

theorem execFor_init (E : Engine σ) (len : Byte) (s : State.Of σ) : execFor E (.init len) s = .next
    (if len = 0 then { s with h := some E.init, hs := .absorbing, ctr := some 0 } else raiseFault .engineAssert s) :=
  commit_eq_ite (fun hl => portInit_eq_ok.mpr ⟨hl, rfl⟩) fun hl => portInit_eq_error.mpr ⟨hl, rfl⟩

theorem execFor_updateMulti {E : Engine σ} (hE : E.CounterContract) {s : State.Of σ} {h : σ} {c : U128}
    (hh : s.h = some h) (hc : s.ctr = some c) (len : Byte) (blk : BitVec 1024) :
    execFor E (.updateMulti len blk) s = .next
      (if s.hs = .absorbing ∧ len = 128 then { s with
        h := some (E.updateMulti h c (Bytes.ofList 128 (laneBytes blk 128))).1, hs := .absorbing, ctr := some (c + 128) }
      else raiseFault .engineAssert s) := by
  rw [ofList_laneBytes, ← hE.1 h c (laneBlock blk)]
  exact commit_eq_ite (fun hp => portUpdateMulti_eq_ok.mpr ⟨hp, h, c, hh, hc, rfl⟩)
    fun hp => portUpdateMulti_eq_error.mpr ⟨.inl hp, rfl⟩

theorem execFor_updateLast {E : Engine σ} (hE : E.CounterContract) {s : State.Of σ} {h : σ} {c : U128}
    (hh : s.h = some h) (hc : s.ctr = some c) (len : Byte) (blk : BitVec 1024) :
    execFor E (.updateLast len blk) s = .next
      (if s.hs = .absorbing ∧ len.toNat ≤ 128 then { s with
        h := some (E.updateLast h c (laneBytes blk len.toNat)).1, hs := .final,
        ctr := some (c + BitVec.ofNat 128 len.toNat) }
      else raiseFault .engineAssert s) := by
  refine commit_eq_ite (fun hp => portUpdateLast_eq_ok.mpr ⟨hp, h, c, hh, hc, ?_⟩)
    fun hp => portUpdateLast_eq_error.mpr ⟨.inl hp, rfl⟩
  have hctr := hE.2 h c (laneBytes blk len.toNat) (by rw [length_laneBytes]; exact hp.2)
  rw [length_laneBytes] at hctr
  rw [hctr]; rfl

theorem execFor_finish {E : Engine σ} {s : State.Of σ} {h : σ} {c : U128} (hh : s.h = some h) (hc : s.ctr = some c)
    (hs : s.hs = .final) : execFor E (.finish 0) s = .next
      { s with portDigest := some (digestBus (E.finish h c)), h := none, hs := .empty } :=
  congrArg (commit s) (finishCommand_eq_ok.mpr ⟨⟨hs, rfl⟩, h, c, hh, hc, rfl⟩)

/-- Settles O39: what each command leaves with the machine's engine, whose counter contract gives the counters. -/
theorem engineCommandsUpdateTheHashState : Obligations.EngineCommandsUpdateTheHashState := by
  intro s f
  refine ⟨fun len => ?_, fun h c len blk hh hc => ⟨?_, ?_⟩⟩ <;> rw [exec_eq_execFor]
  · exact execFor_init engine len s
  · exact execFor_updateMulti engine_counterContract hh hc len blk
  · exact execFor_updateLast engine_counterContract hh hc len blk

/-- Settles O40: the response is the digest's bus, whose lanes are the digest's bytes. -/
theorem finishCommandAnswersTheDigest : Obligations.FinishCommandAnswersTheDigest := by
  intro s h c hh hc hs
  refine ⟨digestBus (engine.finish h c), ?_, fun i hi => laneByte_digestBus _ hi⟩
  rw [exec_eq_execFor]
  exact execFor_finish hh hc hs

/-- Settles O43: the reference engine's counter contract. -/
theorem engineKeepsTheCounterContract : Obligations.EngineKeepsTheCounterContract := engine_counterContract

end Sys2Proof.Machine

/-! SUPPORT. The orchestrator: what each of its micro-operations leaves where it is entered, its successor table, and a
whole COMPUTE, for every engine and on the machine (spec/43_orchestrator.md R141 to R164). -/

namespace Sys2Proof.Machine

variable {σ : Type}

/-! ### The micro-operations of the orchestrator (43_orchestrator R151 to R159) -/

/-- R141's condition for another whole block, as a number of bytes left. -/
theorem moreThanBlock_iff_lt_sub {len off : Word32} (h : off.toNat ≤ len.toNat) :
    moreThanBlock len off = true ↔ 128 < len.toNat - off.toNat := by
  rw [moreThanBlock_iff h]; omega

theorem toNat_advance_le {len off : Word32} (h : off.toNat + 128 < len.toNat) : (off + 128).toNat ≤ len.toNat := by
  rw [toNat_advance h]; omega

theorem MicroOpEffect.inMsgMulti_of_more {E : Engine σ} {s : State.Of σ} {off : Word32} {h : σ} {c : U128}
    (ho : s.off = some off) (hh : s.h = some h) (hc : s.ctr = some c) (hs : s.hs = .absorbing)
    (hlt : off.toNat + 128 < s.dataLen.toNat) (hcap : off.toNat + 128 ≤ s.dataCap.toNat) :
    MicroOpEffect E s .inMsgMulti
      (let r := E.updateMulti h c (Bytes.ofList 128 (Memory.readBytes s.dataMem off.toNat 128))
       { s with
        h := some r.1, ctr := some r.2, off := some (off + 128),
        ph := if 128 < s.dataLen.toNat - (off.toNat + 128) then .inMsgMulti else .inMsgLast }) := by
  have hmore := moreThanBlock_iff_lt_sub (toNat_advance_le hlt)
  have e := MicroOpEffect.inMsgMulti (E := E) off h c _ ho hh hc hs hcap
    (Bytes.ofList_of_length (Memory.length_readBytes ..))
  rw [← hs, if_congr hmore rfl rfl, toNat_advance hlt] at e
  exact e

theorem MicroOpEffect.inMsgLast_of_last {E : Engine σ} {s : State.Of σ} {off : Word32} {h : σ} {c : U128}
    (ho : s.off = some off) (hh : s.h = some h) (hc : s.ctr = some c) (hs : s.hs = .absorbing)
    (hlt : off.toNat < s.dataLen.toNat) (hle : s.dataLen.toNat ≤ off.toNat + 128)
    (hcap : s.dataLen.toNat ≤ s.dataCap.toNat) :
    MicroOpEffect E s .inMsgLast
      (let r := E.updateLast h c (Memory.readBytes s.dataMem off.toNat (s.dataLen.toNat - off.toNat))
       { s with h := some r.1, hs := .final, ctr := some r.2, off := some s.dataLen, ph := .inFinish }) := by
  have hsub : (s.dataLen - off).toNat = s.dataLen.toNat - off.toNat :=
    BitVec.toNat_sub_of_le (BitVec.le_def.mpr (Nat.le_of_lt hlt))
  have e := MicroOpEffect.inMsgLast (E := E) off h c ho hh hc hs (by omega) (by omega)
  rw [hsub, add_sub_cancel] at e
  exact e

theorem MicroOpEffect.inPadMulti_of_le {E : Engine σ} {s : State.Of σ} {pad : Block} {off : Word32} {h : σ}
    {c : U128} (hp : s.ipad = some pad) (ho : s.off = some off) (hh : s.h = some h) (hc : s.ctr = some c)
    (hs : s.hs = .absorbing) (hle : off.toNat ≤ s.dataLen.toNat) :
    MicroOpEffect E s .inPadMulti
      (let r := E.updateMulti h c pad
       { s with
        h := some r.1, ctr := some r.2,
        ph := if 128 < s.dataLen.toNat - off.toNat then .inMsgMulti else .inMsgLast }) := by
  have e := MicroOpEffect.inPadMulti (E := E) pad off h c hp ho hh hc hs
  rw [← hs, if_congr (moreThanBlock_iff_lt_sub hle) rfl rfl] at e
  exact e

theorem MicroOpEffect.outPadMulti_of_absorbing {E : Engine σ} {s : State.Of σ} {pad : Block} {h : σ} {c : U128}
    (hp : s.opad = some pad) (hh : s.h = some h) (hc : s.ctr = some c) (hs : s.hs = .absorbing) :
    MicroOpEffect E s .outPadMulti
      (let r := E.updateMulti h c pad
       { s with h := some r.1, ctr := some r.2, ph := .outDigLast }) := by
  have e := MicroOpEffect.outPadMulti (E := E) pad h c hp hh hc hs
  rw [← hs] at e
  exact e

theorem MicroOpEffect.outFinish_tag {E : Engine σ} {s : State.Of σ} {h : σ} {c : U128} (hh : s.h = some h)
    (hc : s.ctr = some c) (hs : s.hs = .final) (hcap : 64 ≤ s.dstCap.toNat) :
    MicroOpEffect E s .outFinish { s with
      dstMem := Memory.writeBytes s.dstMem 0 (E.finish h c).toList, h := none, hs := .empty, ph := .retire } :=
  .outFinish h c hh hc hs hcap

/-- Settles O34: the effect of IN_MSG_MULTI, the branch on the advanced offset. -/
theorem inMsgMultiAbsorbsOneBlock : Obligations.InMsgMultiAbsorbsOneBlock :=
  fun _ _ _ _ ho hh hc hs hlt hcap => (MicroOpEffect.inMsgMulti_of_more ho hh hc hs hlt hcap).exec_eq

/-- Settles O35: the effect of IN_MSG_LAST, the chunk being the whole rest of the message. -/
theorem inMsgLastAbsorbsTheLastChunk : Obligations.InMsgLastAbsorbsTheLastChunk :=
  fun _ _ _ _ ho hh hc hs hlt hle hcap => (MicroOpEffect.inMsgLast_of_last ho hh hc hs hlt hle hcap).exec_eq

/-- Settles O36: the effects of the four micro-operations whose chunk is a register. -/
theorem registerChunksAreAbsorbed : Obligations.RegisterChunksAreAbsorbed :=
  fun _ h c hh hc hs =>
    ⟨fun pad hp => (MicroOpEffect.inPadLast pad h c hp hh hc hs).exec_eq,
      fun _ _ hp ho hle => (MicroOpEffect.inPadMulti_of_le hp ho hh hc hs hle).exec_eq,
      fun _ hp => (MicroOpEffect.outPadMulti_of_absorbing hp hh hc hs).exec_eq,
      fun d hd => (MicroOpEffect.outDigLast d h c hd hh hc hs).exec_eq⟩

/-- Settles O37: the effect of OUT_FINISH. -/
theorem outFinishStoresTheTag : Obligations.OutFinishStoresTheTag :=
  fun _ _ _ hh hc hs hcap => (MicroOpEffect.outFinish_tag hh hc hs hcap).exec_eq

/-! ### CHECK and the contract (20_memory R41; 44_host_interface R194) -/

theorem contractHolds_iff {s : State.Of σ} : contractHolds s = true ↔
    64 ≤ s.dstCap.toNat ∧ s.keyLen.toNat ≤ s.keyCap.toNat ∧ s.dataLen.toNat ≤ s.dataCap.toNat := by
  simp [contractHolds, and_assoc]

theorem check_ok_iff_contractHolds {s : State.Of σ} : (∃ t, check s = .ok t) ↔ contractHolds s = true := by
  rw [contractHolds_iff]
  constructor
  · rintro ⟨t, h⟩
    obtain ⟨hdst, hkey, hdata, -⟩ := check_eq_ok.mp h
    exact ⟨hdst, hkey, hdata⟩
  · rintro ⟨hdst, hkey, hdata⟩
    exact ⟨_, check_eq_ok.mpr ⟨hdst, hkey, hdata, rfl⟩⟩

/-- Where the contract fails CHECK faults, and by a contract cause (60_exceptions R200). -/
theorem check_eq_error_of_not_contractHolds {s : State.Of σ} (h : contractHolds s = false) :
    ∃ c, c ≠ .engineAssert ∧ check s = .error c := by
  cases hc : check s with
  | ok t => exact absurd (check_ok_iff_contractHolds.mp ⟨t, hc⟩) (by rw [h]; decide)
  | error c =>
    refine ⟨c, ?_, rfl⟩
    rintro rfl
    exact absurd (check_error_code hc) (by decide)

/-! ### The successor table (43_orchestrator R141) -/

/-- A micro-operation of a run names the successor of the table: where that has a condition, the offset is in the range
in which the 32-bit comparison is the one of the rule. -/
theorem MicroOpEffect.ph_eq_successor {E : Engine σ} {p : Phase} {s t : State.Of σ} (e : MicroOpEffect E s p t)
    (hp : s.ph = p) (hi : Inv s) : t.ph = successor p t := by
  have hprog := hi.progress_at hp
  cases e with
  | idle | faulted => exact hp
  | kbClear => exact if_congr keyIsShort_iff rfl rfl
  | inInit => exact if_congr messageIsEmpty_iff rfl rfl
  | khMulti off h c blk ho =>
    rw [ho] at hprog
    obtain ⟨-, -, hlt⟩ := hprog
    exact if_congr (moreThanBlock_iff_lt_sub (toNat_advance_le hlt)) rfl rfl
  | inMsgMulti off h c blk ho =>
    rw [ho] at hprog
    obtain ⟨-, -, hlt⟩ := hprog
    exact if_congr (moreThanBlock_iff_lt_sub (toNat_advance_le hlt)) rfl rfl
  | inPadMulti pad off h c _ ho =>
    rw [ho] at hprog
    obtain ⟨-, hoff, -⟩ : _ ∧ off.toNat = 0 ∧ _ := hprog
    refine if_congr ((moreThanBlock_iff_lt_sub (by omega)).trans ?_) rfl rfl
    simp [ho]
  | _ => rfl

/-- Settles O48: a fault of a run is CHECK's, under a failing contract; every other step has the effect of its phase. -/
theorem successorTableHolds : Obligations.SuccessorTableHolds := by
  intro s t hi _ _ hstep
  rw [exec_eq_execFor] at hstep
  cases PhaseEffect.of_exec hstep with
  | done _ e =>
    refine ⟨fun hp hfail => ?_, fun _ => e.ph_eq_successor rfl hi⟩
    obtain ⟨c, -, hc⟩ := check_eq_error_of_not_contractHolds hfail
    have hok := microOp_eq_ok.mpr e
    rw [hp] at hok
    exact nomatch hc.symm.trans hok
  | fault c he =>
    have hp := hi.microOp_error he
    rw [hp] at he
    refine ⟨fun _ _ => rfl, fun hcontract => ?_⟩
    obtain ⟨t, ht⟩ := check_ok_iff_contractHolds.mpr (hcontract hp)
    exact nomatch ht.symm.trans he

/-! ### Hashing a pad and what follows it (43_orchestrator R142, R164) -/

theorem absorb_succ_block (E : Engine σ) (n : Nat) (hc : σ × U128) (b : Block) (m : List Byte) :
    absorb E (n + 1) hc (b.toList ++ m) = absorb E n (E.updateMulti hc.1 hc.2 b) m := by
  rw [absorb, List.take_left' b.toList_length, List.drop_left' b.toList_length, Bytes.ofList_eq]

/-- Where bytes follow it, a pad is a whole block that is not the last. -/
theorem hash_block_append (E : Engine σ) (b : Block) {m : List Byte} (hm : 0 < m.length) :
    hash E (b.toList ++ m) =
      (let r := absorb E ((m.length - 1) / 128) (E.updateMulti E.init 0 b) m
       E.finish r.1 r.2) := by
  have hn : ((b.toList ++ m).length - 1) / 128 = (m.length - 1) / 128 + 1 := by
    rw [List.length_append, b.toList_length]; omega
  rw [hash, hn, absorb_succ_block]

/-- A pad alone is the last block. -/
theorem hash_block (E : Engine σ) (b : Block) :
    hash E b.toList = (let r := E.updateLast E.init 0 b.toList; E.finish r.1 r.2) := by
  rw [hash, b.toList_length]; rfl

/-- The outer stream: a pad and one digest. -/
theorem hash_block_append_digest (E : Engine σ) (b : Block) (d : Digest) :
    hash E (b.toList ++ d.toList) =
      (let u := E.updateMulti E.init 0 b
       let r := E.updateLast u.1 u.2 d.toList
       E.finish r.1 r.2) := by
  rw [hash_block_append E b (by rw [d.toList_length]; decide), d.toList_length]; rfl

/-! ### The parts of a COMPUTE (43_orchestrator R162)

Each part is said of a run of `m` steps from `u` that has reached the first phase of the part. -/

theorem MicroOpEffect.seqRun_succ {E : Engine σ} {p : Phase} {s t : State.Of σ} (e : MicroOpEffect E s p t)
    (hp : s.ph = p) (n : Nat) : seqRun E (n + 1) s = seqRun E n t := by
  subst hp; exact seqRun_succ_ok (microOp_eq_ok.mpr e)

theorem absorbPhases_data (E : Engine σ) {s : State.Of σ} (hcap : s.dataLen.toNat ≤ s.dataCap.toNat) :
    AbsorbPhases E s s.dataMem s.dataLen .inMsgMulti .inMsgLast .inFinish where
  block _ _ hlt := .inMsgMulti_of_more rfl rfl rfl rfl hlt (Nat.le_trans (Nat.le_of_lt hlt) hcap)
  chunk _ _ hlt hle := .inMsgLast_of_last rfl rfl rfl rfl hlt hle hcap

@[simp] theorem length_messageBytes (s : State.Of σ) : (messageBytes s).length = s.dataLen.toNat :=
  Memory.length_readBytes ..

section

variable {E : Engine σ} {m : Nat} {u s : State.Of σ}

/-- The key normalizer leaves the normalized key; what it leaves in the engine's registers depends on the key's
length. -/
theorem normalizer_run (hrun : seqRun E m u = .ok s) (hp : s.ph = .kbClear) (hcap : s.keyLen.toNat ≤ s.keyCap.toNat) :
    ∃ h life c off, seqRun E (m + normalizerSteps s.keyLen.toNat) u = .ok { s with
      keyblk := some (normalize E (keyBytes s)), h := h, hs := life, ctr := c, off := off, ph := .pdIpad } := by
  rw [seqRun_add hrun, normalizerSteps]
  split
  · rename_i hshort
    exact ⟨_, _, _, _, (normalizer_run_short hp hcap hshort).reaches⟩
  · rename_i hlong
    exact ⟨_, _, _, _, (normalizer_run_long hp hcap (Nat.lt_of_not_le hlong)).reaches⟩

theorem pads_run {kb : Block} (hrun : seqRun E m u = .ok s) (hp : s.ph = .pdIpad) (hk : s.keyblk = some kb) :
    seqRun E (m + 2) u = .ok { s with
      keyblk := none, ipad := some (xorPad Config.ipadByte kb), opad := some (xorPad Config.opadByte kb),
      ph := .inInit } := by
  have hinner := MicroOpEffect.pdIpad (E := E) kb hk
  have houter := MicroOpEffect.pdOpad (E := E)
    (s := (s.setIpad (some (xorPad Config.ipadByte kb))).setPh .pdOpad) kb hk
  exact (seqRun_add hrun).trans ((hinner.seqRun_succ hp 1).trans (houter.seqRun_succ rfl 0))

/-- An empty message: the pad is the whole inner stream. -/
theorem innerHash_run_empty {pad : Block} (hp : s.ph = .inInit) (hpad : s.ipad = some pad)
    (hempty : s.dataLen.toNat = 0) :
    ∃ c off, seqRun E 3 s = .ok { s with
      idig := some (hash E (pad.toList ++ messageBytes s)), h := none, hs := .empty, ctr := c, off := off,
      ph := .outInit } := by
  have hinit := MicroOpEffect.inInit (E := E) (s := s)
  rw [if_pos (messageIsEmpty_iff.mpr hempty)] at hinit
  have hlast := MicroOpEffect.inPadLast (E := E) (s := s.hashingAt .inPadLast .absorbing (E.init, 0) 0)
    pad _ _ hpad rfl rfl rfl
  have hfinish := MicroOpEffect.inFinish (E := E) (s := s.hashingAt .inFinish .final
    (E.updateLast E.init 0 pad.toList) 0) _ _ rfl rfl rfl
  rw [List.eq_nil_of_length_eq_zero ((length_messageBytes s).trans hempty), List.append_nil, hash_block]
  exact ⟨_, _, (hinit.seqRun_succ hp 2).trans ((hlast.seqRun_succ rfl 1).trans (hfinish.seqRun_succ rfl 0))⟩

/-- A message of at least one byte: the pad is the first block, and the message is absorbed after it. -/
theorem innerHash_run_message {pad : Block} (hp : s.ph = .inInit) (hpad : s.ipad = some pad)
    (hne : 0 < s.dataLen.toNat) (hcap : s.dataLen.toNat ≤ s.dataCap.toNat) :
    ∃ c off, seqRun E (4 + (s.dataLen.toNat - 1) / 128) s = .ok { s with
      idig := some (hash E (pad.toList ++ messageBytes s)), h := none, hs := .empty, ctr := c, off := off,
      ph := .outInit } := by
  have hinit := MicroOpEffect.inInit (E := E) (s := s)
  rw [if_neg (mt messageIsEmpty_iff.mp (Nat.ne_of_gt hne))] at hinit
  have hfirst := MicroOpEffect.inPadMulti_of_le (E := E) (s := s.hashingAt .inPadMulti .absorbing (E.init, 0) 0)
    hpad rfl rfl rfl rfl (Nat.zero_le _)
  have hblocks : 128 * ((s.dataLen.toNat - 1) / 128) < s.dataLen.toNat ∧
      s.dataLen.toNat ≤ 128 * ((s.dataLen.toNat - 1) / 128) + 128 := by omega
  have habsorb := ((absorbPhases_data E hcap).run (q := .retire) (by decide) (by decide) (E.updateMulti E.init 0 pad)
    (off := 0) (by simpa using hblocks.1) (by simpa using hblocks.2)).reaches
  have hfinish := MicroOpEffect.inFinish (E := E) (s := s.hashingAt .inFinish .final
    (absorb E ((s.dataLen.toNat - 1) / 128) (E.updateMulti E.init 0 pad) (messageBytes s)) s.dataLen) _ _ rfl rfl rfl
  rw [hash_block_append E pad (by rwa [length_messageBytes]), length_messageBytes,
    show 4 + (s.dataLen.toNat - 1) / 128 = (s.dataLen.toNat - 1) / 128 + 1 + 1 + 1 + 1 by omega]
  exact ⟨_, _, (hinit.seqRun_succ hp _).trans ((hfirst.seqRun_succ rfl _).trans
    ((seqRun_add habsorb).trans (hfinish.seqRun_succ rfl 0)))⟩

theorem innerHash_run {pad : Block} (hrun : seqRun E m u = .ok s) (hp : s.ph = .inInit) (hpad : s.ipad = some pad)
    (hcap : s.dataLen.toNat ≤ s.dataCap.toNat) :
    ∃ c off, seqRun E (m + if s.dataLen.toNat = 0 then 3 else 4 + (s.dataLen.toNat - 1) / 128) u = .ok { s with
      idig := some (hash E (pad.toList ++ messageBytes s)), h := none, hs := .empty, ctr := c, off := off,
      ph := .outInit } := by
  rw [seqRun_add hrun]
  split
  · rename_i hempty
    exact innerHash_run_empty hp hpad hempty
  · rename_i hne
    exact innerHash_run_message hp hpad (Nat.pos_of_ne_zero hne) hcap

theorem outerHash_run {pad : Block} {d : Digest} (hrun : seqRun E m u = .ok s) (hp : s.ph = .outInit)
    (hpad : s.opad = some pad) (hd : s.idig = some d) (hcap : 64 ≤ s.dstCap.toNat) :
    ∃ c off, seqRun E (m + 4) u = .ok { s with
      dstMem := Memory.writeBytes s.dstMem 0 (hash E (pad.toList ++ d.toList)).toList,
      h := none, hs := .empty, ctr := c, off := off, ph := .retire } := by
  have hinit := MicroOpEffect.outInit (E := E) (s := s)
  have hfirst := MicroOpEffect.outPadMulti (E := E) (s := s.hashingAt .outPadMulti .absorbing (E.init, 0) 0)
    pad _ _ hpad rfl rfl rfl
  have hlast := MicroOpEffect.outDigLast (E := E) (s := s.hashingAt .outDigLast .absorbing
    (E.updateMulti E.init 0 pad) 0) d _ _ hd rfl rfl rfl
  have hfinish := MicroOpEffect.outFinish (E := E) (s := s.hashingAt .outFinish .final
    (let u := E.updateMulti E.init 0 pad; E.updateLast u.1 u.2 d.toList) 0) _ _ rfl rfl rfl hcap
  rw [seqRun_add hrun, hash_block_append_digest]
  exact ⟨_, _, (hinit.seqRun_succ hp 3).trans ((hfirst.seqRun_succ rfl 2).trans
    ((hlast.seqRun_succ rfl 1).trans (hfinish.seqRun_succ rfl 0)))⟩

end

/-! ### A whole COMPUTE (43_orchestrator R162, R164) -/

/-- RETIRE discards what a COMPUTE still holds (44_host_interface R195). Its seven updates are unfolded by `simp only`:
compared by `rfl`, each would be unfolded again for every field of the next. -/
theorem MicroOpEffect.retire_discards {E : Engine σ} {s : State.Of σ} : MicroOpEffect E s .retire { s with
    busy := false, done := true, ph := .idle,
    ipad := none, opad := none, idig := none, ctr := none, off := none } := by
  have e := MicroOpEffect.retire (E := E) (s := s)
  simp only [State.Of.setIpad, State.Of.setOpad, State.Of.setIdig, State.Of.setCtr, State.Of.setOff,
    State.Of.setStatus, State.Of.setPh] at e
  exact e

/-- One step before its end a COMPUTE is at RETIRE, the tag stored; the registers that RETIRE discards still hold
values. -/
theorem compute_reaches_retire (E : Engine σ) {s : State.Of σ} (hp : s.ph = .check) (hc : contractHolds s = true) :
    ∃ ip op d c off, seqRun E (computeSteps s.keyLen.toNat s.dataLen.toNat - 1) s = .ok { s with
      keyblk := none, ipad := ip, opad := op, idig := d, h := none, hs := .empty, ctr := c, off := off,
      dstMem := Memory.writeBytes s.dstMem 0 (hmacTag E (keyBytes s) (messageBytes s)).toList, ph := .retire } := by
  obtain ⟨hdst, hkey, hdata⟩ := contractHolds_iff.mp hc
  have hcheck := (MicroOpEffect.check (E := E) hdst hkey hdata).seqRun_succ hp 0
  obtain ⟨_, _, _, _, hnorm⟩ := normalizer_run hcheck rfl hkey
  obtain ⟨_, _, hinner⟩ := innerHash_run (pads_run hnorm rfl rfl) rfl rfl hdata
  obtain ⟨_, _, houter⟩ := outerHash_run hinner rfl rfl rfl hdst
  exact ⟨_, _, _, _, _, houter⟩

theorem computeSteps_sub_add_cancel (kl dl : Nat) : computeSteps kl dl - 1 + 1 = computeSteps kl dl :=
  Nat.sub_add_cancel (Nat.le_add_left 1 _)

/-- RETIRE discards what is left, and the COMPUTE ends. -/
theorem compute_run (E : Engine σ) {s : State.Of σ} (hp : s.ph = .check) (hc : contractHolds s = true) :
    seqRun E (computeSteps s.keyLen.toNat s.dataLen.toNat) s = .ok { s with
      busy := false, done := true, ph := .idle,
      keyblk := none, ipad := none, opad := none, idig := none, h := none, hs := .empty, ctr := none, off := none,
      dstMem := Memory.writeBytes s.dstMem 0 (hmacTag E (keyBytes s) (messageBytes s)).toList } := by
  obtain ⟨_, _, _, _, _, hretire⟩ := compute_reaches_retire E hp hc
  rw [← computeSteps_sub_add_cancel s.keyLen.toNat s.dataLen.toNat]
  rw [seqRun_add hretire]
  exact MicroOpEffect.retire_discards.seqRun_succ rfl 0

/-- Settles O57: the run up to RETIRE, and RETIRE's step. -/
theorem computeWritesTheTagForEveryEngine : Obligations.ComputeWritesTheTagForEveryEngine := by
  intro σ E s hp hc
  obtain ⟨_, _, _, _, _, hretire⟩ := compute_reaches_retire E hp hc
  exact ⟨⟨_, hretire, rfl, rfl⟩, compute_run E hp hc⟩

/-! ### The machine with no turn scheduled (44_host_interface R180; log 1) -/

theorem stepFor_of_no_turns (E : Engine σ) {s : State.Of σ} (h : s.inputs = []) :
    stepFor E s = commit s (microOp E s.ph s) := by
  have hn : nextTurn s = (.run (.ph s.ph.code), s) := by rw [nextTurn, h]
  exact (stepWith_of_run hn (decode_phase_code _)).trans (execFor_phase E _ s)

theorem run_succ_of_next {M : Host.Core} {n : Nat} {s t : M.State} (h : M.step s = .next t) :
    M.run (n + 1) s = M.run n t := by
  rw [Host.Core.run, h]

/-- Where no turn is scheduled the machine runs as the sequencer does, up to the first fault. -/
theorem run_core_of_seqRun {n : Nat} {s t : State} (h : s.inputs = []) (hrun : seqRun engine n s = .ok t) :
    Host.Core.run Sys2Proof.core n s = .next t := by
  induction n generalizing s with
  | zero => cases hrun; rfl
  | succ n ih =>
    rw [seqRun] at hrun
    cases hop : microOp engine s.ph s with
    | error c => rw [hop] at hrun; cases hrun
    | ok u =>
      rw [hop] at hrun
      have hstep : step s = .next u := by rw [step_eq_stepFor, stepFor_of_no_turns engine h, hop, commit_ok]
      obtain ⟨-, -, -, -, -, hin⟩ := (microOp_eq_ok.mp hop).operands
      exact (run_succ_of_next (M := Sys2Proof.core) (s := s) hstep).trans (ih (hin.trans h) hrun)

/-- Settles O58: the sequencer's run is the machine's, and a failing contract is CHECK's fault. -/
theorem computeWritesTheTag : Obligations.ComputeWritesTheTag := by
  intro s hp hin
  refine ⟨fun hc => run_core_of_seqRun hin (compute_run engine hp hc), fun hfail => ?_⟩
  obtain ⟨c, hcause, hc⟩ := check_eq_error_of_not_contractHolds hfail
  have hstep : step s = .next (raiseFault c s) := by
    rw [step_eq_stepFor, stepFor_of_no_turns engine hin, hp]
    exact congrArg (commit s) hc
  exact ⟨c, hcause, run_succ_of_next (M := Sys2Proof.core) hstep⟩

end Sys2Proof.Machine

/-! SUPPORT. What each kind of turn runs, for every engine, and that a run without host errors never stops
(spec/44_host_interface.md R180; log 1, 2, 7, 18). -/

namespace Sys2Proof.Machine

variable {σ : Type}

/-! ### What each turn runs (44_host_interface R180; 30_encoding R61, R64, R72) -/

/-- Settles O7: the step is `run` of the decoded instruction, and exec is `execFor` of the machine's engine. -/
theorem stepRunsTheDecodedInstruction : Obligations.StepRunsTheDecodedInstruction :=
  ⟨fun _ _ _ _ hn hd => stepWith_of_run (run := exec) hn hd,
    fun _ E _ _ _ _ hn hd => stepWith_of_run (run := execFor E) hn hd, exec_eq_execFor⟩

section

variable (E : Engine σ) {s : State.Of σ} {l : List Input}

theorem stepFor_of_sequencer (h : s.inputs = .sequencer :: l) :
    stepFor E s = execFor E s.ph.instr (s.setInputs l) :=
  stepWith_of_run (by rw [nextTurn, h]) (decode_phase_code _)

theorem stepFor_of_host {w : BitVec 36} (h : s.inputs = .host w :: l) :
    stepFor E s = execFor E (decodeHt w) (s.setInputs l) :=
  stepWith_of_run (c := .ht w) (by rw [nextTurn, h]) rfl

/-- A POLL reads STATUS, and stays on the schedule behind a turn of the sequencer while BUSY = 1. -/
theorem stepFor_of_poll (h : s.inputs = .poll :: l) :
    stepFor E s = execFor E (.rdStatus 0) (s.setInputs (if s.busy then .sequencer :: .poll :: l else l)) :=
  stepWith_of_run (c := .ht readStatus) (by rw [nextTurn, h]) rfl

theorem stepFor_of_port {hdr : BitVec 10} {blk : BitVec 1024} (h : s.inputs = .port hdr blk :: l) :
    stepFor E s = execFor E (decodeEc hdr blk) (s.setInputs l) :=
  stepWith_of_run (c := .ec hdr blk) (by rw [nextTurn, h]) rfl

theorem stepFor_of_platform {a : PlatformAction} (h : s.inputs = .platform a :: l) :
    stepFor E s = platformAct a (s.setInputs l) :=
  stepWith_of_act (by rw [nextTurn, h])

end

/-- Settles O8: the kinds of turn one by one. -/
theorem eachTurnRunsItsInstruction : Obligations.EachTurnRunsItsInstruction := by
  intro s rest
  simp only [step_eq_stepFor, exec_eq_execFor]
  exact ⟨fun h => (stepFor_of_no_turns engine h).trans (execFor_phase engine _ s).symm,
    stepFor_of_sequencer engine, fun _ => stepFor_of_host engine, stepFor_of_poll engine,
    fun _ _ => stepFor_of_port engine, fun _ => stepFor_of_platform engine⟩

/-- The machine's run by its first step, which is the step with its engine. -/
theorem run_core_succ {n : Nat} {s t : State} (h : stepFor engine s = .next t) :
    Host.Core.run Sys2Proof.core (n + 1) s = Host.Core.run Sys2Proof.core n t := by
  rw [← step_eq_stepFor] at h
  exact run_succ_of_next (M := Sys2Proof.core) (s := s) h

/-! ### Runs without host errors (44_host_interface R179, R180; log 7, 17, 18) -/

theorem HostEffect.inputs_eq {s t : State.Of σ} (e : HostEffect s t) : t.inputs = s.inputs := by
  cases e <;> simp

theorem PortEffect.inputs_eq {s t : State.Of σ} (e : PortEffect s t) : t.inputs = s.inputs := by
  cases e <;> simp [raiseFault]

theorem PhaseEffect.inputs_eq {E : Engine σ} {p : Phase} {s t : State.Of σ} (e : PhaseEffect E s p t) :
    t.inputs = s.inputs := by
  cases e with
  | done _ e =>
    obtain ⟨-, -, -, -, -, hin⟩ := e.operands
    exact hin
  | fault => rfl

/-- An instruction answers a next state and leaves the schedule alone. -/
theorem execFor_next_inputs (E : Engine σ) (i : Instr) (s : State.Of σ) :
    ∃ t, execFor E i s = .next t ∧ t.inputs = s.inputs := by
  obtain ⟨t, h⟩ := execFor_next E i s
  refine ⟨t, h, ?_⟩
  obtain e | e | ⟨p, -, e⟩ := execFor_effect h
  · exact e.inputs_eq
  · exact e.inputs_eq
  · exact e.inputs_eq

/-- The platform's scheduled actions are resets: neither of the model's two stops is on the schedule (log 7, 18). -/
def OnlyResets (l : List Input) : Prop := ∀ a, .platform a ∈ l → a = .reset

theorem OnlyResets.tail {x : Input} {l : List Input} (h : OnlyResets (x :: l)) : OnlyResets l :=
  fun a ha => h a (.tail x ha)

/-- A POLL that stays on the schedule puts no platform action before it. -/
theorem OnlyResets.poll {b : Bool} {l : List Input} (h : OnlyResets (.poll :: l)) :
    OnlyResets (if b then .sequencer :: .poll :: l else l) := by
  cases b with
  | false => exact h.tail
  | true => exact fun a ha => h a (by simpa using ha)

/-- Where the platform only resets, every turn answers a next state, and the platform goes on only resetting. -/
theorem stepFor_next_of_onlyResets (E : Engine σ) {s : State.Of σ} (h : OnlyResets s.inputs) :
    ∃ t, stepFor E s = .next t ∧ OnlyResets t.inputs := by
  have runs {i : Instr} {u : State.Of σ} (hs : stepFor E s = execFor E i u) (hu : OnlyResets u.inputs) :
      ∃ t, stepFor E s = .next t ∧ OnlyResets t.inputs := by
    obtain ⟨t, ht, hin⟩ := execFor_next_inputs E i u
    exact ⟨t, hs.trans ht, hin ▸ hu⟩
  cases hi : s.inputs with
  | nil => exact runs ((stepFor_of_no_turns E hi).trans (execFor_phase E s.ph s).symm) h
  | cons x l =>
    rw [hi] at h
    cases x with
    | sequencer => exact runs (stepFor_of_sequencer E hi) h.tail
    | host w => exact runs (stepFor_of_host E hi) h.tail
    | poll => exact runs (stepFor_of_poll E hi) h.poll
    | port hdr blk => exact runs (stepFor_of_port E hi) h.tail
    | platform a =>
      obtain rfl := h a (.head l)
      exact ⟨takeReset (s.setInputs l), stepFor_of_platform E hi, h.tail⟩

/-- Settles O51: by induction on the number of steps, each of which answers and keeps the schedule free of host
errors. -/
theorem runsWithoutHostErrorsAreSafe : Obligations.RunsWithoutHostErrorsAreSafe := by
  intro s h n
  induction n generalizing s with
  | zero => exact ⟨s, rfl⟩
  | succ n ih =>
    obtain ⟨u, hstep, hu⟩ := stepFor_next_of_onlyResets engine h
    obtain ⟨t, ht⟩ := ih u hu
    exact ⟨t, (run_core_succ hstep).trans ht⟩

end Sys2Proof.Machine

/-! SUPPORT. The host transactions one by one, and the micro-operations that open and close a COMPUTE
(spec/44_host_interface.md R181 to R198). -/

namespace Sys2Proof.Machine

variable {σ : Type}

/-! ### Host transactions (44_host_interface R181 to R193, R196 to R198) -/

theorem execStart_accepted {s : State.Of σ} (hb : s.busy = false) (hf : s.fault = false) :
    execStart s = .next { s with busy := true, done := false, ph := .check } :=
  if_pos ⟨hb, hf⟩

theorem execStart_ignored {s : State.Of σ} (h : s.busy = true ∨ s.fault = true) : execStart s = .next s :=
  if_neg fun ⟨hb, hf⟩ => by simp [hb, hf] at h

theorem execWrKeyLen_performed {s : State.Of σ} (hb : s.busy = false) (d : Word32) :
    execWrKeyLen d s = .next { s with keyLen := d } :=
  if_neg (by rw [hb]; decide)

theorem execWrDataLen_performed {s : State.Of σ} (hb : s.busy = false) (d : Word32) :
    execWrDataLen d s = .next { s with dataLen := d } :=
  if_neg (by rw [hb]; decide)

/-- While BUSY = 1 a host transaction can only read: every write of its rows is guarded (R181, R183, R184). -/
theorem HostEffect.reads_of_busy {s t : State.Of σ} (e : HostEffect s t) (hb : s.busy = true) :
    ∃ r, t = s.setRdData r := by
  cases e with
  | nothing => exact ⟨s.rdData, rfl⟩
  | read v => exact ⟨v, rfl⟩
  | start hidle | keyLen _ hidle | dataLen _ hidle => rw [hb] at hidle; cases hidle

/-- Settles O19: by what a host transaction can leave. -/
theorem hostIsPowerlessWhileBusy : Obligations.HostIsPowerlessWhileBusy := by
  intro w s hb
  obtain ⟨t, h, e⟩ := exec_decodeHt w s
  obtain ⟨r, rfl⟩ := e.reads_of_busy hb
  exact ⟨r, h⟩

/-- Settles O12: by the guard of START. -/
theorem startIsAcceptedOrIgnored : Obligations.StartIsAcceptedOrIgnored :=
  fun _ _ => ⟨fun ⟨hb, hf⟩ => execStart_accepted hb hf, execStart_ignored⟩

/-- Settles O13: by the guard of the two writes. -/
theorem lengthWritesAreDroppedWhileBusy : Obligations.LengthWritesAreDroppedWhileBusy :=
  fun d _ => ⟨fun hb => ⟨execWrKeyLen_performed hb d, execWrDataLen_performed hb d⟩,
    fun hb => ⟨if_pos hb, if_pos hb⟩⟩

/-- Settles O14: the meaning of each of the five is `ignoreWrite`. -/
theorem ignoredWritesChangeNothing : Obligations.IgnoredWritesChangeNothing :=
  fun _ _ _ => ⟨rfl, rfl, rfl, rfl, rfl⟩

/-- Settles O15: each is `readHostReg` of its register. -/
theorem readsReturnTheRegister : Obligations.ReadsReturnTheRegister :=
  fun _ _ => ⟨rfl, rfl, rfl, rfl, rfl, rfl, rfl⟩

/-- Settles O16: `readHostReg` of register 7 returns 0, and the write is `ignoreWrite`. -/
theorem registerSevenIsReserved : Obligations.RegisterSevenIsReserved := fun _ _ => ⟨rfl, rfl⟩

/-! ### CHECK, RETIRE and the resting phases (44_host_interface R180, R194, R195) -/

theorem check_dstShort {s : State.Of σ} (hdst : s.dstCap.toNat < 64) : check s = .error .dstShort :=
  if_pos hdst

theorem check_keyShort {s : State.Of σ} (hdst : 64 ≤ s.dstCap.toNat) (hkey : s.keyCap.toNat < s.keyLen.toNat) :
    check s = .error .keyShort := by
  rw [check, if_neg (Nat.not_lt.mpr hdst), if_pos hkey]

theorem check_dataShort {s : State.Of σ} (hdst : 64 ≤ s.dstCap.toNat) (hkey : s.keyLen.toNat ≤ s.keyCap.toNat)
    (hdata : s.dataCap.toNat < s.dataLen.toNat) : check s = .error .dataShort := by
  rw [check, if_neg (Nat.not_lt.mpr hdst), if_neg (Nat.not_lt.mpr hkey), if_pos hdata]

/-- Settles O21: by the chain of CHECK's comparisons; a fault is the fault entry with its cause's code. -/
theorem checkTestsTheContract : Obligations.CheckTestsTheContract :=
  fun s => ⟨fun hdst => congrArg (commit s) (check_dstShort hdst),
    fun hdst hkey => congrArg (commit s) (check_keyShort hdst hkey),
    fun hdst hkey hdata => congrArg (commit s) (check_dataShort hdst hkey hdata),
    fun hdst hkey hdata => (MicroOpEffect.check hdst hkey hdata).exec_eq⟩

/-- Settles O24: the effect of RETIRE. -/
theorem retireEndsTheCompute : Obligations.RetireEndsTheCompute := fun _ => MicroOpEffect.retire_discards.exec_eq

/-- Settles O25: what RETIRE does not write and a reset does, the invariant has at the reset value already: KEYBLK and
`H` are consumed, and no fault has been entered. -/
theorem retireLeavesTheResetState : Obligations.RetireLeavesTheResetState := by
  intro s hi hp
  obtain ⟨-, -, hf, hc⟩ := (statusInv_enabled (by rw [hp]; rfl)).mp hi.status
  have hk : s.keyblk = none := eq_none_of_isSome hi.held.keyblk (by rw [hp]; rfl)
  have hh : s.h = none := eq_none_of_isSome hi.held.hash (by rw [hp]; rfl)
  have hs : s.hs = .empty := by rw [hi.held.life, hp]; rfl
  rw [retireEndsTheCompute s]
  simp [takeReset, hf, hc, hk, hh, hs]

/-- Settles O26: the effects of the two resting phases. -/
theorem restingPhasesChangeNothing : Obligations.RestingPhasesChangeNothing :=
  fun _ => ⟨MicroOpEffect.idle.exec_eq, MicroOpEffect.faulted.exec_eq⟩

end Sys2Proof.Machine

/-! SUPPORT. Runs of host and sequencer turns together: the interleaving while BUSY = 1, and a COMPUTE through the
register file (spec/44_host_interface.md R180, R199; spec/30_encoding.md R72; log 1, 3). -/

namespace Sys2Proof.Machine

variable {σ : Type}

/-! ### The host's side of a state -/

/-- `s` with `l` as the turns to come and `v` as what the latest read returned: the two fields that a run of host and
sequencer turns has beside what the sequencer's turns alone have (log 1, 3). -/
def State.Of.hosted (s : State.Of σ) (l : List Input) (v : Option Word32) : State.Of σ :=
  { s with inputs := l, rdData := v }

theorem MicroOpEffect.unique {E : Engine σ} {p : Phase} {s t u : State.Of σ} (ht : MicroOpEffect E s p t)
    (hu : MicroOpEffect E s p u) : t = u :=
  Except.ok.inj ((microOp_eq_ok.mpr ht).symm.trans (microOp_eq_ok.mpr hu))

/-- No micro-operation reads or writes the host's side. -/
theorem MicroOpEffect.hosted {E : Engine σ} {p : Phase} {s t : State.Of σ} (e : MicroOpEffect E s p t)
    (l : List Input) (v : Option Word32) : MicroOpEffect E (s.hosted l v) p (t.hosted l v) := by
  cases e with
  | idle => exact .idle
  | check h1 h2 h3 => exact .check (s := s.hosted l v) h1 h2 h3
  | kbClear => exact .kbClear (s := s.hosted l v)
  | knCopy kb hk h1 h2 => exact .knCopy (s := s.hosted l v) kb hk h1 h2
  | khInit => exact .khInit (s := s.hosted l v)
  | khMulti off h c blk ho hh hc hs hb he => exact .khMulti (s := s.hosted l v) off h c blk ho hh hc hs hb he
  | khLast off h c ho hh hc hs hr hb => exact .khLast (s := s.hosted l v) off h c ho hh hc hs hr hb
  | khFinish kb h c hk hh hc hs => exact .khFinish (s := s.hosted l v) kb h c hk hh hc hs
  | pdIpad kb hk => exact .pdIpad (s := s.hosted l v) kb hk
  | pdOpad kb hk => exact .pdOpad (s := s.hosted l v) kb hk
  | inInit => exact .inInit (s := s.hosted l v)
  | inPadLast pad h c hp hh hc hs => exact .inPadLast (s := s.hosted l v) pad h c hp hh hc hs
  | inPadMulti pad off h c hp ho hh hc hs => exact .inPadMulti (s := s.hosted l v) pad off h c hp ho hh hc hs
  | inMsgMulti off h c blk ho hh hc hs hb he => exact .inMsgMulti (s := s.hosted l v) off h c blk ho hh hc hs hb he
  | inMsgLast off h c ho hh hc hs hr hb => exact .inMsgLast (s := s.hosted l v) off h c ho hh hc hs hr hb
  | inFinish h c hh hc hs => exact .inFinish (s := s.hosted l v) h c hh hc hs
  | outInit => exact .outInit (s := s.hosted l v)
  | outPadMulti pad h c hp hh hc hs => exact .outPadMulti (s := s.hosted l v) pad h c hp hh hc hs
  | outDigLast d h c hp hh hc hs => exact .outDigLast (s := s.hosted l v) d h c hp hh hc hs
  | outFinish h c hh hc hs hd => exact .outFinish (s := s.hosted l v) h c hh hc hs hd
  | retire =>
    have hdiscards := (MicroOpEffect.retire (E := E) (s := s)).unique .retire_discards
    rw [hdiscards]
    exact .retire_discards (s := s.hosted l v)
  | faulted => exact .faulted

section

variable (E : Engine σ) {s t : State.Of σ} (l : List Input) (v : Option Word32)

theorem stepFor_hosted_sequencer (e : MicroOpEffect E s s.ph t) :
    stepFor E (s.hosted (.sequencer :: l) v) = .next (t.hosted l v) := by
  rw [stepFor_of_sequencer E (l := l) rfl, execFor_phase]
  exact congrArg (commit _) (microOp_eq_ok.mpr (e.hosted l v))

theorem stepFor_hosted_host (hb : s.busy = true) (w : BitVec 36) :
    ∃ r, stepFor E (s.hosted (.host w :: l) v) = .next (s.hosted l r) := by
  obtain ⟨u, h, e⟩ := execFor_decodeHt E w (s.hosted l v)
  obtain ⟨r, rfl⟩ := e.reads_of_busy hb
  exact ⟨r, (stepFor_of_host E rfl).trans h⟩

/-- A read of a POLL: while BUSY = 1 a turn of the sequencer and the POLL again are to come (30_encoding R72). -/
theorem stepFor_hosted_poll : stepFor E (s.hosted (.poll :: l) v) =
    .next (s.hosted (if s.busy then .sequencer :: .poll :: l else l) (some (statusWord s))) :=
  stepFor_of_poll E rfl

end

/-! ### The sequencer's turns while BUSY = 1 -/

/-- `n` turns of the sequencer alone take `s` to `u`, and BUSY = 1 before each of them. -/
inductive BusyRun (E : Engine σ) : Nat → State.Of σ → State.Of σ → Prop
  | done (s : State.Of σ) : BusyRun E 0 s s
  | step {n : Nat} {s t u : State.Of σ} (hb : s.busy = true) (e : MicroOpEffect E s s.ph t) (r : BusyRun E n t u) :
      BusyRun E (n + 1) s u

theorem seqRun_succ_eq_ok {E : Engine σ} {n : Nat} {s u : State.Of σ} :
    seqRun E (n + 1) s = .ok u ↔ ∃ t, MicroOpEffect E s s.ph t ∧ seqRun E n t = .ok u := by
  simp only [seqRun, ← microOp_eq_ok]
  cases microOp E s.ph s <;> simp

theorem BusyRun.of_seqRun {E : Engine σ} {n : Nat} {s u : State.Of σ} (hrun : seqRun E n s = .ok u)
    (hbusy : ∀ j, j ≤ n → ∃ v, seqRun E j s = .ok v ∧ v.busy = true) : BusyRun E n s u := by
  induction n generalizing s with
  | zero => cases hrun; exact .done _
  | succ n ih =>
    obtain ⟨t, e, ht⟩ := seqRun_succ_eq_ok.mp hrun
    obtain ⟨_, hs, hb⟩ := hbusy 0 (Nat.zero_le _)
    cases hs
    refine .step hb e (ih ht fun j hj => ?_)
    have hnext := hbusy (j + 1) (Nat.succ_le_succ hj)
    rwa [e.seqRun_succ rfl] at hnext

theorem BusyRun.busy_at_start {E : Engine σ} {n : Nat} {s u : State.Of σ} (r : BusyRun E n s u)
    (hu : u.busy = true) : s.busy = true := by
  cases r with
  | done => exact hu
  | step hb => exact hb

/-! ### The interleaving (44_host_interface R180, 92_eei_decisions D24) -/

/-- A host transaction leaves all but the read value, and a sequencer's turn does not look at it, so the two can be
taken in any order. -/
theorem run_core_interleaved {turns : List Input} (hturns : ∀ x ∈ turns, x = .sequencer ∨ ∃ w, x = .host w)
    {s u : State} (hrun : BusyRun engine (turns.count .sequencer) s u) (hu : u.busy = true) (v : Option Word32) :
    ∃ r, Host.Core.run Sys2Proof.core turns.length (s.hosted turns v) = .next (u.hosted [] r) := by
  induction turns generalizing s v with
  | nil => cases hrun; exact ⟨v, rfl⟩
  | cons x l ih =>
    have hl : ∀ y ∈ l, y = .sequencer ∨ ∃ w, y = .host w := fun y hy => hturns y (.tail x hy)
    obtain rfl | ⟨w, rfl⟩ := hturns x (.head l)
    · rw [List.count_cons_self] at hrun
      cases hrun with
      | step hb e rest =>
        have hstep := stepFor_hosted_sequencer engine l v e
        obtain ⟨r, hr⟩ := ih hl rest v
        exact ⟨r, (run_core_succ hstep).trans hr⟩
    · rw [List.count_cons_of_ne (by simp)] at hrun
      obtain ⟨v', hstep⟩ := stepFor_hosted_host engine l v (hrun.busy_at_start hu) w
      obtain ⟨r, hr⟩ := ih hl hrun v'
      exact ⟨r, (run_core_succ hstep).trans hr⟩

/-- Settles O59: by induction on the schedule. -/
theorem interleavingCannotBeSeen : Obligations.InterleavingCannotBeSeen := by
  rintro s u _ hturns rfl hbusy hrun
  obtain ⟨_, hv, hu⟩ := hbusy _ (Nat.le_refl _)
  cases hrun.symm.trans hv
  exact run_core_interleaved hturns (.of_seqRun hrun hbusy) hu s.rdData

/-! ### A POLL (30_encoding R72) -/

/-- A POLL reads STATUS before and after each turn of a launch, and ends with the read that finds BUSY = 0. -/
theorem run_core_poll {n : Nat} {s u : State} (hrun : BusyRun engine n s u) (hu : u.busy = false) {w : Word32}
    (hw : statusWord u = w) (l : List Input) (v : Option Word32) :
    Host.Core.run Sys2Proof.core (2 * n + 1) (s.hosted (.poll :: l) v) = .next (u.hosted l (some w)) := by
  subst hw
  induction hrun generalizing v with
  | done s =>
    have hread := stepFor_hosted_poll engine (s := s) l v
    rw [if_neg (by rw [hu]; decide)] at hread
    exact run_core_succ hread
  | @step n s t u hb e _ ih =>
    have hread := stepFor_hosted_poll engine (s := s) l v
    have hturn := stepFor_hosted_sequencer engine (.poll :: l) (some (statusWord s)) e
    rw [if_pos hb] at hread
    exact (run_core_succ hread).trans
      ((run_core_succ hturn).trans (ih hu _))

/-! ### A COMPUTE through the register file (44_host_interface R199) -/

theorem seqRun_of_rests {E : Engine σ} {s : State.Of σ} (hp : s.ph.enabled = false) (n : Nat) :
    seqRun E n s = .ok s := by
  induction n with
  | zero => rfl
  | succ n ih =>
    rcases s.ph.idle_or_faulted_or_enabled with h | h | h
    · exact (MicroOpEffect.idle.seqRun_succ h n).trans ih
    · exact (MicroOpEffect.faulted.seqRun_succ h n).trans ih
    · rw [hp] at h; cases h

/-- A run that reaches RETIRE has BUSY = 1 up to it: a resting phase is not left, and RETIRE leads to one. -/
theorem BusyRun.of_retire {E : Engine σ} {n : Nat} {s t u : State.Of σ} (hrun : seqRun E n s = .ok t)
    (hp : t.ph = .retire) (e : MicroOpEffect E t .retire u) (hb : s.busy = true) : BusyRun E (n + 1) s u := by
  have stays {m : Nat} {v : State.Of σ} (hv : seqRun E m v = .ok t) : v.ph.enabled = true := by
    by_contra hrest
    rw [seqRun_of_rests (Bool.not_eq_true _ ▸ hrest)] at hv
    cases hv
    exact hrest (hp ▸ rfl)
  induction n generalizing s with
  | zero => cases hrun; exact .step hb (hp ▸ e) (.done u)
  | succ n ih =>
    obtain ⟨v, ev, hv⟩ := seqRun_succ_eq_ok.mp hrun
    have hne : s.ph ≠ .retire := fun hs => by
      have hidle : v.ph = .idle := by rw [hs] at ev; cases ev; rfl
      exact (Phase.enabled_ne (stays hv)).1 hidle
    obtain ⟨-, hvb, -⟩ := ev.keeps_status (stays hrun) hne
    exact .step hb ev (ih hv (hvb.trans hb))

/-- Once a COMPUTE has ended, STATUS is DONE alone (44_host_interface R190). -/
theorem statusWord_of_done {s : State.Of σ} (hb : s.busy = false) (hd : s.done = true) (hf : s.fault = false)
    (hc : s.faultCode = 0) : statusWord s = 2 := by
  simp [statusWord, hb, hd, hf, hc]

/-- `s` after an accepted START with the two length registers written. -/
def State.Of.launched (s : State.Of σ) (kl dl : Word32) : State.Of σ :=
  { s with keyLen := kl, dataLen := dl, busy := true, done := false, ph := .check }

/-- BUSY = 1 in every state of a launched COMPUTE but the last. -/
theorem launched_busyRun (E : Engine σ) {s : State.Of σ} {kl dl : Word32}
    (hok : contractHolds (s.launched kl dl) = true) :
    BusyRun E (computeSteps kl.toNat dl.toNat) (s.launched kl dl) { s with
      keyLen := kl, dataLen := dl, busy := false, done := true, ph := .idle,
      keyblk := none, ipad := none, opad := none, idig := none, h := none, hs := .empty, ctr := none, off := none,
      dstMem := Memory.writeBytes s.dstMem 0
        (hmacTag E (Memory.readBytes s.keyMem 0 kl.toNat) (Memory.readBytes s.dataMem 0 dl.toNat)).toList } := by
  obtain ⟨_, _, _, _, _, hretire⟩ := compute_reaches_retire E (s := s.launched kl dl) rfl hok
  rw [← computeSteps_sub_add_cancel kl.toNat dl.toNat]
  exact .of_retire hretire rfl .retire_discards rfl

section

variable (E : Engine σ) {s : State.Of σ} (l : List Input) (v : Option Word32)

theorem stepFor_hosted_wrKeyLen (hb : s.busy = false) (d : Word32) :
    stepFor E (s.hosted (.host (htWord 1 2 d) :: l) v) = .next (State.Of.hosted { s with keyLen := d } l v) := by
  have hdecode : .wrKeyLen d = decodeHt (htWord 1 2 d) := encode_eq_ht_iff.mp rfl
  rw [stepFor_of_host E rfl, ← hdecode]
  exact execWrKeyLen_performed (s := s.hosted l v) hb d

theorem stepFor_hosted_wrDataLen (hb : s.busy = false) (d : Word32) :
    stepFor E (s.hosted (.host (htWord 1 3 d) :: l) v) = .next (State.Of.hosted { s with dataLen := d } l v) := by
  have hdecode : .wrDataLen d = decodeHt (htWord 1 3 d) := encode_eq_ht_iff.mp rfl
  rw [stepFor_of_host E rfl, ← hdecode]
  exact execWrDataLen_performed (s := s.hosted l v) hb d

theorem stepFor_hosted_start (hb : s.busy = false) (hf : s.fault = false) :
    stepFor E (s.hosted (pseudoStart ++ l) v) =
      .next (State.Of.hosted { s with busy := true, done := false, ph := .check } l v) := by
  have hdecode : .start 0 = decodeHt 0x800000001 := by decide
  rw [stepFor_of_host E rfl, ← hdecode]
  exact execStart_accepted (s := s.hosted l v) hb hf

end

section

variable {s : State} {kl dl : Word32}

/-- The three writes of a COMPUTE launch it, and its POLL is to come (R181, R183, R184). -/
theorem run_core_pseudoCompute (hb : s.busy = false) (hf : s.fault = false) (n : Nat) (v : Option Word32) :
    Host.Core.run Sys2Proof.core (n + 3) (s.hosted (pseudoCompute kl dl) v) =
      Host.Core.run Sys2Proof.core n ((s.launched kl dl).hosted pseudoPoll v) := by
  have hkey := stepFor_hosted_wrKeyLen engine (.host (htWord 1 3 dl) :: (pseudoStart ++ pseudoPoll)) v hb kl
  have hdata := stepFor_hosted_wrDataLen engine (s := { s with keyLen := kl }) (pseudoStart ++ pseudoPoll) v hb dl
  have hstart := stepFor_hosted_start engine (s := { s with keyLen := kl, dataLen := dl }) pseudoPoll v hb hf
  exact (run_core_succ hkey).trans ((run_core_succ hdata).trans (run_core_succ hstart))

/-- Where the contract holds, the POLL lasts for the steps of the COMPUTE and its last read returns DONE alone. -/
theorem run_core_launched (hf : s.fault = false) (hc : s.faultCode = 0)
    (hok : contractHolds (s.launched kl dl) = true) (v : Option Word32) :
    Host.Core.run Sys2Proof.core (2 * computeSteps kl.toNat dl.toNat + 1) ((s.launched kl dl).hosted pseudoPoll v) =
      .next { s with
        keyLen := kl, dataLen := dl, busy := false, done := true, ph := .idle,
        keyblk := none, ipad := none, opad := none, idig := none, h := none, hs := .empty, ctr := none, off := none,
        inputs := [], rdData := some 2,
        dstMem := Memory.writeBytes s.dstMem 0
          (hmacTag engine (Memory.readBytes s.keyMem 0 kl.toNat) (Memory.readBytes s.dataMem 0 dl.toNat)).toList } := by
  have hpoll := run_core_poll (launched_busyRun engine hok) rfl (statusWord_of_done rfl rfl hf hc) [] v
  -- With the engine opaque the two end states agree field by field; otherwise the tag would be evaluated.
  generalize engine = E at hpoll ⊢
  exact hpoll

/-- Where the contract fails, CHECK's fault ends the POLL, and its last read returns FAULT and the cause. -/
theorem run_core_launched_fault (hfail : contractHolds (s.launched kl dl) = false) (v : Option Word32) :
    ∃ c : FaultCause, c ≠ .engineAssert ∧
      Host.Core.run Sys2Proof.core 3 ((s.launched kl dl).hosted pseudoPoll v) = .next { s with
        keyLen := kl, dataLen := dl, busy := false, done := false, fault := true, faultCode := c.code, ph := .faulted,
        inputs := [], rdData := some (BitVec.ofNat 32 (4 + 16 * c.code.toNat)) } := by
  have hbusy := stepFor_hosted_poll engine (s := s.launched kl dl) [] v
  obtain ⟨c, hcause, hc⟩ := check_eq_error_of_not_contractHolds
    (s := (s.launched kl dl).hosted [.poll] (some (statusWord (s.launched kl dl)))) hfail
  have hcheck : stepFor engine ((s.launched kl dl).hosted [.sequencer, .poll] (some (statusWord (s.launched kl dl)))) =
      .next (raiseFault c ((s.launched kl dl).hosted [.poll] (some (statusWord (s.launched kl dl))))) :=
    (stepFor_of_sequencer engine rfl).trans (congrArg (commit _) hc)
  have hread := stepFor_hosted_poll engine (s := raiseFault c (s.launched kl dl)) []
    (some (statusWord (s.launched kl dl)))
  have hcode : statusWord (raiseFault c (s.launched kl dl)) = BitVec.ofNat 32 (4 + 16 * c.code.toNat) := by
    simp [statusWord, raiseFault, State.Of.launched]
  rw [hcode] at hread
  exact ⟨c, hcause, (run_core_succ hbusy).trans ((run_core_succ hcheck).trans (run_core_succ hread))⟩

end

/-- Settles O60: three writes, and a POLL that lasts as long as BUSY = 1. -/
theorem computeThroughTheRegisterFile : Obligations.ComputeThroughTheRegisterFile := by
  intro s kl dl hb hf hc hin
  have launch (n : Nat) : Host.Core.run Sys2Proof.core (n + 3) s =
      Host.Core.run Sys2Proof.core n ((s.launched kl dl).hosted pseudoPoll s.rdData) := by
    have h := run_core_pseudoCompute (kl := kl) (dl := dl) hb hf n s.rdData
    rwa [← hin] at h
  refine ⟨fun hok => (launch _).trans (run_core_launched hf hc hok _), fun hfail => ?_⟩
  obtain ⟨c, hcause, hrun⟩ := run_core_launched_fault (s := s) (kl := kl) (dl := dl) hfail s.rdData
  exact ⟨c, hcause, (launch 3).trans hrun⟩

end Sys2Proof.Machine

/-! SUPPORT. Faults and what the host sees: the fields of STATUS, the fault entry, that only a reset leaves a fault,
where a micro-operation asserts, and that the host's view after a transaction is determined by the one before
(spec/60_exceptions.md R204 to R207, R210, R215). -/

namespace Sys2Proof.Machine

variable {σ : Type}

/-! ### The fields of STATUS (10_state R14) -/

/-- Bits 0, 1, 2 and 7:4 of STATUS are its four fields. -/
theorem statusWord_fields (s : State.Of σ) :
    ((statusWord s).getLsbD 0 = s.busy ∧ (statusWord s).getLsbD 1 = s.done ∧ (statusWord s).getLsbD 2 = s.fault) ∧
      (statusWord s).extractLsb' 4 4 = s.faultCode := by
  rw [statusWord]
  generalize s.busy = b, s.done = d, s.fault = f, s.faultCode = c
  revert b d f c; decide

/-- Settles O18: by the fields of STATUS. -/
theorem levelOutputsCopyTheStatusBits : Obligations.LevelOutputsCopyTheStatusBits := fun s => (statusWord_fields s).1

/-- STATUS shows its four fields and nothing else. -/
theorem statusWord_eq_iff {s t : State.Of σ} : statusWord s = statusWord t ↔
    s.busy = t.busy ∧ s.done = t.done ∧ s.fault = t.fault ∧ s.faultCode = t.faultCode := by
  constructor
  · intro h
    obtain ⟨⟨hb, hd, hf⟩, hc⟩ := statusWord_fields s
    obtain ⟨⟨hb', hd', hf'⟩, hc'⟩ := statusWord_fields t
    rw [h] at hb hd hf hc
    exact ⟨hb.symm.trans hb', hd.symm.trans hd', hf.symm.trans hf', hc.symm.trans hc'⟩
  · rintro ⟨hb, hd, hf, hc⟩
    rw [statusWord, statusWord, hb, hd, hf, hc]

/-! ### The fault entry (60_exceptions R205) -/

/-- A micro-operation that completes does not lead into FAULTED: it rests where it was, names a next micro-operation, or
returns to IDLE. -/
theorem MicroOpEffect.ph_ne_faulted {E : Engine σ} {p : Phase} {s t : State.Of σ} (e : MicroOpEffect E s p t)
    (hs : s.ph ≠ .faulted) : t.ph ≠ .faulted := by
  rcases p.idle_or_faulted_or_enabled with rfl | rfl | hp
  · cases e; exact hs
  · cases e; exact hs
  · by_cases hr : p = .retire
    · subst hr; cases e; simp
    · exact (Phase.enabled_ne (e.keeps_status hp hr).1).2

theorem HostEffect.ph_ne_faulted {s t : State.Of σ} (e : HostEffect s t) (hs : s.ph ≠ .faulted) :
    t.ph ≠ .faulted := by
  cases e with
  | start => simp
  | nothing | keyLen | dataLen | read => exact hs

/-- Whatever the engine, FAULTED is entered by the fault entry only. -/
theorem execFor_enters_faulted {E : Engine σ} {i : Instr} {s t : State.Of σ} (hs : s.ph ≠ .faulted)
    (h : execFor E i s = .next t) (ht : t.ph = .faulted) : ∃ c, t = raiseFault c s := by
  obtain e | e | ⟨p, -, e⟩ := execFor_effect h
  · exact absurd ht (e.ph_ne_faulted hs)
  · cases e with
    | fault => exact ⟨_, rfl⟩
    | absorb | finish => exact absurd ht hs
  · cases e with
    | done _ e => exact absurd ht (e.ph_ne_faulted hs)
    | fault c => exact ⟨c, rfl⟩

/-- Settles O22: by what an instruction of each format can leave. -/
theorem faultsWriteFourFieldsOnly : Obligations.FaultsWriteFourFieldsOnly := by
  intro i s t hs h ht
  rw [exec_eq_execFor] at h
  exact execFor_enters_faulted hs h ht

/-! ### A fault is sticky (60_exceptions R206, R207) -/

/-- From `s` to `t` PH and the four fields of STATUS are as they were. -/
def KeepsStatus (s t : State.Of σ) : Prop :=
  (t.ph, t.busy, t.done, t.fault, t.faultCode) = (s.ph, s.busy, s.done, s.fault, s.faultCode)

theorem keepsStatus_iff {s t : State.Of σ} : KeepsStatus s t ↔
    t.ph = s.ph ∧ t.busy = s.busy ∧ t.done = s.done ∧ t.fault = s.fault ∧ t.faultCode = s.faultCode := by
  simp [KeepsStatus]

theorem keepsStatus_setSpace (s : State.Of σ) (sp : Space) (cap : Word32) (m : Memory) :
    KeepsStatus s (s.setSpace sp cap m) :=
  keepsStatus_iff.mpr (by simp)

/-- The sequencer rests in FAULTED: no second fault is entered. -/
theorem PhaseEffect.eq_of_faulted {E : Engine σ} {s t : State.Of σ} (e : PhaseEffect E s .faulted t) : t = s := by
  cases e with
  | done _ e => cases e; rfl
  | fault c he => exact nomatch he

/-- With FAULT = 1 START is ignored, and no other transaction writes STATUS or PH. -/
theorem HostEffect.keepsStatus_of_fault {s t : State.Of σ} (e : HostEffect s t) (hf : s.fault = true) :
    KeepsStatus s t := by
  cases e with
  | start _ hf' => rw [hf] at hf'; cases hf'
  | nothing | keyLen | dataLen | read => exact rfl

/-- A platform action other than a reset reaches a space only. -/
theorem platformAct_keepsStatus {a : PlatformAction} {s t : State.Of σ} (ha : a ≠ .reset)
    (h : platformAct a s = .next t) : KeepsStatus s t := by
  cases a with
  | reset => exact absurd rfl ha
  | attach sp cap bytes =>
    rw [platformAct] at h
    split at h <;> cases h
    exact keepsStatus_setSpace s ..
  | hostWrite sp off b =>
    rw [platformAct] at h
    split at h
    · cases h
    · split at h <;> cases h
      exact keepsStatus_setSpace s ..

/-- In FAULTED every turn but a reset and a bench's command keeps PH and STATUS, whatever the engine. -/
theorem stepFor_keepsStatus_of_faulted {E : Engine σ} {s t : State.Of σ} (hp : s.ph = .faulted)
    (hf : s.fault = true) (hn : noBench s.inputs = true) (hr : s.inputs.head? ≠ some (.platform .reset))
    (h : stepFor E s = .next t) : KeepsStatus s t := by
  have rests {u : State.Of σ} (hu : KeepsStatus s u) (e : execFor E s.ph.instr u = .next t) : KeepsStatus s t := by
    rw [hp] at e
    obtain rfl := (PhaseEffect.of_exec (p := .faulted) e).eq_of_faulted
    exact hu
  cases hi : s.inputs with
  | nil =>
    rw [stepFor_of_no_turns E hi, ← execFor_phase] at h
    exact rests (u := s) rfl h
  | cons x l =>
    rw [hi] at hn hr
    cases x with
    | sequencer =>
      rw [stepFor_of_sequencer E hi] at h
      exact rests (u := s.setInputs l) rfl h
    | host w =>
      rw [stepFor_of_host E hi] at h
      exact (HostEffect.of_exec h).keepsStatus_of_fault hf
    | poll =>
      rw [stepFor_of_poll E hi] at h
      cases h
      exact rfl
    | port => exact nomatch hn
    | platform a =>
      rw [stepFor_of_platform E hi] at h
      have ha : a ≠ .reset := by rintro rfl; exact hr rfl
      exact platformAct_keepsStatus (s := s.setInputs l) ha h

/-- Settles O23: by the kind of turn. -/
theorem faultsAreSticky : Obligations.FaultsAreSticky := by
  intro s t hp hf hn hr h
  rw [step_eq_stepFor] at h
  obtain ⟨hph, hbusy, hdone, hfault, hcode⟩ :=
    keepsStatus_iff.mp (stepFor_keepsStatus_of_faulted hp hf hn hr h)
  exact ⟨hph.trans hp, hfault.trans hf, hcode, hbusy, hdone⟩

/-! ### Where a micro-operation asserts (60_exceptions R204) -/

/-- A micro-operation that completes failed no assertion: what its effect carries is what its readiness lists. -/
theorem MicroOpEffect.ready {E : Engine σ} {p : Phase} {s t : State.Of σ} (e : MicroOpEffect E s p t) :
    microOpReady p s = true := by
  cases e <;> simp [microOpReady, portReady, chunkReady, -BitVec.toNat_sub, *]

/-- CHECK apart, a micro-operation at which an assertion fails faults with ENGINE_ASSERT. -/
theorem microOp_eq_error_of_not_ready {E : Engine σ} {p : Phase} {s : State.Of σ} (hp : p ≠ .check)
    (h : microOpReady p s = false) : microOp E p s = .error .engineAssert := by
  cases he : microOp E p s with
  | ok t => exact nomatch h.symm.trans (microOp_eq_ok.mp he).ready
  | error c => rw [microOp_error_cause he hp]

/-- Settles O44: no assertion fails exactly where the micro-operation has its effect, and it faults with ENGINE_ASSERT
elsewhere. -/
theorem microOpsAssertExactlyWhenNotReady : Obligations.MicroOpsAssertExactlyWhenNotReady := by
  refine fun p s hp => ⟨fun hready => ?_, fun hfail => ?_⟩
  · obtain ⟨t, e⟩ := MicroOpEffect.of_ready (E := engine) hp hready
    exact ⟨t, microOp_eq_ok.mpr e, e.exec_eq⟩
  · rw [exec_phase, microOp_eq_error_of_not_ready hp hfail]; rfl

/-! ### What the host sees (10_state section 4, 60_exceptions R215) -/

/-- The host sees the fields of STATUS, the lengths, the capacities and its latest read. -/
theorem hostView_eq_iff {s t : State.Of σ} : hostView s = hostView t ↔
    (s.busy = t.busy ∧ s.done = t.done ∧ s.fault = t.fault ∧ s.faultCode = t.faultCode) ∧
      s.keyLen = t.keyLen ∧ s.dataLen = t.dataLen ∧
      s.keyCap = t.keyCap ∧ s.dataCap = t.dataCap ∧ s.dstCap = t.dstCap ∧ s.rdData = t.rdData := by
  rw [hostView, hostView, HostView.mk.injEq, statusWord_eq_iff]

@[simp] theorem hostView_setKeyLen (s : State.Of σ) (v : Word32) :
    hostView (s.setKeyLen v) = { hostView s with keyLen := v } := rfl

@[simp] theorem hostView_setDataLen (s : State.Of σ) (v : Word32) :
    hostView (s.setDataLen v) = { hostView s with dataLen := v } := rfl

@[simp] theorem hostView_setRdData (s : State.Of σ) (v : Option Word32) :
    hostView (s.setRdData v) = { hostView s with rdData := v } := rfl

/-- Every host register is in the host's view. -/
theorem hostReg_eq_of_hostView_eq {s t : State.Of σ} (h : hostView s = hostView t) (reg : BitVec 3) :
    hostReg s reg = hostReg t reg := by
  obtain ⟨hst, hkl, hdl, hkc, hdc, hdst, -⟩ := hostView_eq_iff.mp h
  simp only [hostReg, statusWord_eq_iff.mpr hst, hkl, hdl, hkc, hdc, hdst]

/-- Two answers after which the host sees the same. -/
def ShowTheSame (r r' : Result.Of σ) : Prop :=
  ∃ t t', r = .next t ∧ r' = .next t' ∧ hostView t = hostView t'

/-- A guarded transaction shows the same where the guards agree and both branches show the same. -/
theorem showTheSame_ite {P P' : Prop} [Decidable P] [Decidable P'] {t u t' u' : State.Of σ} (hP : P ↔ P')
    (ht : hostView t = hostView t') (hu : hostView u = hostView u') :
    ShowTheSame (if P then .next t else .next u) (if P' then .next t' else .next u') := by
  by_cases hp : P
  · exact ⟨t, t', if_pos hp, if_pos (hP.mp hp), ht⟩
  · exact ⟨u, u', if_neg hp, if_neg (mt hP.mpr hp), hu⟩

section

variable {s s' : State.Of σ} (h : hostView s = hostView s')

include h

theorem readHostReg_showTheSame (reg : BitVec 3) : ShowTheSame (readHostReg reg s) (readHostReg reg s') :=
  ⟨_, _, rfl, rfl, by simp [h, hostReg_eq_of_hostView_eq h reg]⟩

theorem execStart_showTheSame : ShowTheSame (execStart s) (execStart s') := by
  obtain ⟨⟨hb, -, hf, hc⟩, hrest⟩ := hostView_eq_iff.mp h
  have haccepted : hostView ((s.setStatus true false s.fault s.faultCode).setPh .check) =
      hostView ((s'.setStatus true false s'.fault s'.faultCode).setPh .check) :=
    hostView_eq_iff.mpr ⟨⟨rfl, rfl, hf, hc⟩, hrest⟩
  exact showTheSame_ite (by rw [hb, hf]) haccepted h

theorem execWrKeyLen_showTheSame (d : Word32) : ShowTheSame (execWrKeyLen d s) (execWrKeyLen d s') := by
  obtain ⟨⟨hb, -⟩, -⟩ := hostView_eq_iff.mp h
  exact showTheSame_ite (by rw [hb]) h (by simp [h])

theorem execWrDataLen_showTheSame (d : Word32) : ShowTheSame (execWrDataLen d s) (execWrDataLen d s') := by
  obtain ⟨⟨hb, -⟩, -⟩ := hostView_eq_iff.mp h
  exact showTheSame_ite (by rw [hb]) h (by simp [h])

/-- What the host sees after a transaction depends on what it saw before only, whatever the engine. -/
theorem execFor_decodeHt_showTheSame (E : Engine σ) (w : BitVec 36) :
    ShowTheSame (execFor E (decodeHt w) s) (execFor E (decodeHt w) s') := by
  have hht := encode_decodeHt w
  cases hi : decodeHt w with rw [hi] at hht
  | start => exact execStart_showTheSame h
  | wrKeyLen d => exact execWrKeyLen_showTheSame h d
  | wrDataLen d => exact execWrDataLen_showTheSame h d
  | wrCtrlNop | wrStatus | wrKeyCap | wrDataCap | wrDstCap | wrRsvd7 => exact ⟨s, s', rfl, rfl, h⟩
  | rdCtrl | rdStatus | rdKeyLen | rdDataLen | rdKeyCap | rdDataCap | rdDstCap | rdRsvd7 =>
    exact readHostReg_showTheSame h _
  | _ => exact nomatch hht

end

/-- No transaction reaches a data register or a space. -/
theorem HostEffect.data_eq {s t : State.Of σ} (e : HostEffect s t) :
    (t.keyblk, t.ipad, t.opad, t.idig, t.h, t.hs, t.ctr, t.off) =
        (s.keyblk, s.ipad, s.opad, s.idig, s.h, s.hs, s.ctr, s.off) ∧
      (t.keyMem, t.dataMem, t.dstMem) = (s.keyMem, s.dataMem, s.dstMem) := by
  cases e <;> exact ⟨rfl, rfl⟩

/-- Settles O20: by the rows of the register file, and by what a transaction can leave. -/
theorem hostSeesOnlyItsRegisters : Obligations.HostSeesOnlyItsRegisters := by
  intro w s s' h
  simp only [exec_eq_execFor]
  obtain ⟨t, t', ht, ht', hview⟩ := execFor_decodeHt_showTheSame h engine w
  exact ⟨t, t', ht, ht', hview, (HostEffect.of_exec ht).data_eq⟩

end Sys2Proof.Machine

/-! SUPPORT. Reset from every state, and the sequencer's path: what steers it, its skeleton, is determined by the
skeleton before the step, for any two engines (spec/70_reset_and_hazards.md R230, R250). -/

namespace Sys2Proof.Machine

/-! ### Reset (70_reset R230; 10_state R33) -/

/-- Settles O10: the turn is a platform action, and its reset writes these values. -/
theorem resetFromEveryState : Obligations.ResetFromEveryState := by
  intro s rest h
  rw [step_eq_stepFor, stepFor_of_platform engine h]
  rfl

/-! ### The skeleton under the updates (R250)

`held` lists which of `KEYBLK`, `IPAD`, `OPAD`, `IDIG`, `H`, `CTR` hold a value, in this order. -/

section

variable {σ : Type} (s : State.Of σ)

theorem skeleton_setStatus (b d f : Bool) (c : BitVec 4) : skeleton (s.setStatus b d f c) =
    { skeleton s with
      status := BitVec.ofNat 32 (b.toNat + 2 * d.toNat + 4 * f.toNat + 16 * c.toNat) } := rfl

@[simp] theorem skeleton_setPh (p : Phase) : skeleton (s.setPh p) = { skeleton s with ph := p } := rfl

@[simp] theorem skeleton_setOff (v : Option Word32) : skeleton (s.setOff v) = { skeleton s with off := v } := rfl

@[simp] theorem skeleton_setKeyblk (v : Option Block) : skeleton (s.setKeyblk v) =
    { skeleton s with held := (skeleton s).held.set 0 v.isSome } := rfl

@[simp] theorem skeleton_setIpad (v : Option Block) : skeleton (s.setIpad v) =
    { skeleton s with held := (skeleton s).held.set 1 v.isSome } := rfl

@[simp] theorem skeleton_setOpad (v : Option Block) : skeleton (s.setOpad v) =
    { skeleton s with held := (skeleton s).held.set 2 v.isSome } := rfl

@[simp] theorem skeleton_setIdig (v : Option Digest) : skeleton (s.setIdig v) =
    { skeleton s with held := (skeleton s).held.set 3 v.isSome } := rfl

@[simp] theorem skeleton_setHash (v : Option σ) (life : HashLife) : skeleton (s.setHash v life) =
    { skeleton s with hs := life, held := (skeleton s).held.set 4 v.isSome } := rfl

@[simp] theorem skeleton_setCtr (v : Option U128) : skeleton (s.setCtr v) =
    { skeleton s with held := (skeleton s).held.set 5 v.isSome } := rfl

@[simp] theorem skeleton_setDst (m : Memory) : skeleton (s.setDst m) = skeleton s := rfl

end

/-! ### Two states of one skeleton -/

section

variable {σ σ' : Type} {s : State.Of σ} {s' : State.Of σ'} (h : skeleton s = skeleton s')

include h

/-- STATUS shows the fault and its code, whatever the engine's state type. -/
theorem fault_eq_of_skeleton_eq : s.fault = s'.fault ∧ s.faultCode = s'.faultCode := by
  obtain ⟨⟨-, -, hf⟩, hc⟩ := statusWord_fields s
  obtain ⟨⟨-, -, hf'⟩, hc'⟩ := statusWord_fields s'
  have hw : statusWord s = statusWord s' := congrArg Skeleton.status h
  exact ⟨by rw [← hf, ← hf', hw], by rw [← hc, ← hc', hw]⟩

theorem lens_eq_of_skeleton_eq : s.keyLen = s'.keyLen ∧ s.dataLen = s'.dataLen :=
  ⟨congrArg Skeleton.keyLen h, congrArg Skeleton.dataLen h⟩

theorem caps_eq_of_skeleton_eq : s.keyCap = s'.keyCap ∧ s.dataCap = s'.dataCap ∧ s.dstCap = s'.dstCap :=
  ⟨congrArg Skeleton.keyCap h, congrArg Skeleton.dataCap h, congrArg Skeleton.dstCap h⟩

theorem off_eq_of_skeleton_eq {off off' : Word32} (ho : s.off = some off) (ho' : s'.off = some off') : off = off' :=
  Option.some.inj (ho.symm.trans ((congrArg Skeleton.off h).trans ho'))

/-- Whether an assertion fails depends on the skeleton only. -/
theorem microOpReady_eq_of_skeleton_eq (p : Phase) : microOpReady p s = microOpReady p s' := by
  obtain ⟨hkl, hdl⟩ := lens_eq_of_skeleton_eq h
  obtain ⟨hkc, hdc, hdst⟩ := caps_eq_of_skeleton_eq h
  have hoff : s.off = s'.off := congrArg Skeleton.off h
  have hhs : s.hs = s'.hs := congrArg Skeleton.hs h
  obtain ⟨hkb, hip, hop, hid, hh, hctr⟩ : s.keyblk.isSome = s'.keyblk.isSome ∧ s.ipad.isSome = s'.ipad.isSome ∧
      s.opad.isSome = s'.opad.isSome ∧ s.idig.isSome = s'.idig.isSome ∧ s.h.isSome = s'.h.isSome ∧
      s.ctr.isSome = s'.ctr.isSome := by simpa [skeleton] using congrArg Skeleton.held h
  simp only [microOpReady, portReady, hkl, hdl, hkc, hdc, hdst, hoff, hhs, hkb, hip, hop, hid, hh, hctr]

/-- CHECK takes the same branch. -/
theorem check_skeleton_eq : (check s).map skeleton = (check s').map skeleton := by
  obtain ⟨hkl, hdl⟩ := lens_eq_of_skeleton_eq h
  obtain ⟨hkc, hdc, hdst⟩ := caps_eq_of_skeleton_eq h
  simp only [check, hkl, hdl, hkc, hdc, hdst]
  split_ifs <;> simp [Except.map, h]

/-- What a completed micro-operation leaves differs in bytes only: the values it writes are bytes, and the successor
and the new offset come from the lengths and the old offset. -/
theorem MicroOpEffect.skeleton_eq {E : Engine σ} {E' : Engine σ'} {p : Phase} {t : State.Of σ} {t' : State.Of σ'}
    (e : MicroOpEffect E s p t) (e' : MicroOpEffect E' s' p t') : skeleton t = skeleton t' := by
  obtain ⟨hkl, hdl⟩ := lens_eq_of_skeleton_eq h
  cases e with
  | kbClear | inInit => cases e'; simp [h, hkl, hdl]
  | khMulti _ _ _ _ ho | khLast _ _ _ ho | inPadMulti _ _ _ _ _ ho | inMsgMulti _ _ _ _ ho | inMsgLast _ _ _ ho =>
    cases e'
    cases off_eq_of_skeleton_eq h ho ‹s'.off = some _›
    simp [h, hkl, hdl]
  | retire =>
    obtain ⟨hf, hc⟩ := fault_eq_of_skeleton_eq h
    cases e'; simp [h, skeleton_setStatus, hf, hc]
  | _ => cases e'; simp [h]

/-- A step of the sequencer faults with the same cause or leaves the same skeleton. -/
theorem microOp_skeleton_eq (E : Engine σ) (E' : Engine σ') (p : Phase) :
    (microOp E p s).map skeleton = (microOp E' p s').map skeleton := by
  by_cases hp : p = .check
  · subst hp
    exact check_skeleton_eq h
  cases hready : microOpReady p s with
  | false =>
    rw [microOp_eq_error_of_not_ready hp hready,
      microOp_eq_error_of_not_ready hp ((microOpReady_eq_of_skeleton_eq h p).symm.trans hready)]
    rfl
  | true =>
    obtain ⟨t, e⟩ := MicroOpEffect.of_ready (E := E) hp hready
    obtain ⟨t', e'⟩ :=
      MicroOpEffect.of_ready (E := E') hp ((microOpReady_eq_of_skeleton_eq h p).symm.trans hready)
    rw [microOp_eq_ok.mpr e, microOp_eq_ok.mpr e']
    exact congrArg Except.ok (e.skeleton_eq h e')

end

/-! ### The sequencer's path (R250) -/

/-- Two answers of one skeleton are two states of one skeleton, or faults with one cause. -/
theorem map_skeleton_eq_iff {σ σ' : Type} {r : Except FaultCause (State.Of σ)} {r' : Except FaultCause (State.Of σ')} :
    r.map skeleton = r'.map skeleton ↔
      (∃ t t', r = .ok t ∧ r' = .ok t' ∧ skeleton t = skeleton t') ∨ ∃ c, r = .error c ∧ r' = .error c := by
  cases r <;> cases r' <;> simp [Except.map, eq_comm]

/-- Settles O49: by induction on the number of steps, from the step's lemma. -/
theorem controlFlowIgnoresBytes : Obligations.ControlFlowIgnoresBytes := by
  intro σ σ' E E' n
  induction n with
  | zero => exact fun s s' h => .inl ⟨s, s', rfl, rfl, h⟩
  | succ n ih =>
    intro s s' h
    have hph : s.ph = s'.ph := congrArg Skeleton.ph h
    rw [seqRun, seqRun, ← hph]
    obtain ⟨t, t', ht, ht', hskel⟩ | ⟨c, hc, hc'⟩ := map_skeleton_eq_iff.mp (microOp_skeleton_eq h E E' s.ph)
    · rw [ht, ht']
      exact ih t t' hskel
    · rw [hc, hc']
      exact .inr ⟨c, rfl, rfl⟩

end Sys2Proof.Machine
